-- ==== Sys2Proof/Word.lean ====
section
/-! DEFINITION. The word types of the CRSF relay core (spec/00_scope.md R11, R12; spec/20_memory.md R54). -/

namespace Sys2Proof

/-- A byte: 8 bits (R11). `CRC[p]`, the parser buffers, the FIFO and the wire move single bytes (R54). -/
abbrev Byte := BitVec 8

/-- A 16-bit field: LEN and RLEN of the headers (R71, R72), SETTLE (R26). -/
abbrev Half := BitVec 16

/-- A 32-bit register value (R24 to R27, R54). -/
abbrev Word := BitVec 32

/-- A byte string (R12). -/
abbrev Bytes := List Byte

end Sys2Proof
end

