-- ==== Sys2Proof/Config.lean ====
section
/-! DEFINITION. The constants the source fixes (spec/00_scope.md R8) and the implementation parameters it leaves
open (R9). A parameter has no value here: `Config.params` is an opaque constant with no body, so nothing can be
proved that depends on which legal values a build of the block picks (assumption log 1). -/

namespace Sys2Proof.Config

/-- SYNC_SET (R8): the device-address set. -/
@[simp] abbrev syncSet : Bytes := [0xC8, 0xEA, 0xEC, 0xEE]

/-- EXT_THRESHOLD (R8): a type at or above it is extended (R83). -/
@[simp] abbrev extThreshold : Nat := 0x28

/-- LEN_MIN (R8): the least frame length field. -/
@[simp] abbrev lenMin : Nat := 2

/-- LEN_MAX (R8): the greatest frame length field. -/
@[simp] abbrev lenMax : Nat := 62

/-- FRAME_MIN_BYTES (R8): the shortest decodable frame. -/
@[simp] abbrev frameMinBytes : Nat := 4

/-- The least length field of an extended frame: type, dest, orig and crc (R81, R127). -/
@[simp] abbrev extLenMin : Nat := 4

/-- CRC_POLY (R8): x^8+x^7+x^6+x^4+x^2+1 with the x^8 term implied. -/
@[simp] abbrev crcPoly : Byte := 0xD5

/-- CRC_INIT (R8). -/
@[simp] abbrev crcInit : Byte := 0x00

/-- ENV_HDR_LEN (R8): type, timestamp and length of an envelope. -/
@[simp] abbrev envHdrLen : Nat := 11

/-- Bytes of an envelope timestamp (R86). -/
@[simp] abbrev tsLen : Nat := 8

/-- ENV_PAYLOAD_MAX (R8). -/
@[simp] abbrev envPayloadMax : Nat := 65523

/-- PTYPE_CRSF_DATA, PTYPE_HEARTBEAT, PTYPE_STATUS (R8, R87). -/
@[simp] abbrev ptypes : Bytes := [0x01, 0x02, 0x03]

/-- PARSER_CAP (R10): the capacity of one parser buffer. -/
@[simp] abbrev parserCap : Nat := 64

/-- The largest LEN of `PARSER_PUSH` (R77, R157, R158). -/
@[simp] abbrev pushMax : Nat := 65472

/-- The number a 16-bit LEN or RLEN can count to (R71, R72). -/
@[simp] abbrev lenFieldMax : Nat := 65535

/-- DIR_PINS (R9): one or two physical direction-control pins. -/
inductive DirPins where
  | one
  | two
deriving DecidableEq, Repr, Inhabited

/-- The implementation parameters of R9, each carried with its legal range. They are arguments of the step
relation (spec/10_state.md R20): `Machine.stepWith` takes them, `Machine.step` takes `Config.params`. -/
structure Params where
  /-- N_PORTS: command ports. -/
  nPorts : Nat := 1
  nPorts_pos : 1 ≤ nPorts := by decide
  /-- RX_FIFO_DEPTH: bytes the receive FIFO holds. -/
  rxFifoDepth : Nat := 1
  rxFifoDepth_range : 1 ≤ rxFifoDepth ∧ rxFifoDepth ≤ 65535 := by decide
  /-- BAUD_RESET, in bit/s. -/
  baudReset : Word := 1
  baudReset_ne : baudReset ≠ 0 := by decide
  /-- SETTLE_RESET, in µs: every 16-bit value is legal. -/
  settleReset : Half := 0
  /-- BITS_PER_BYTE: bit times one serial byte occupies, start and stop bits included. -/
  bitsPerByte : Nat := 1
  bitsPerByte_range : 1 ≤ bitsPerByte ∧ bitsPerByte ≤ 255 := by decide
  /-- DIR_PINS. -/
  dirPins : DirPins := .one
deriving DecidableEq, Repr, Inhabited

/-- The parameters of the block that is modelled. No body: a claim about `Machine.step` holds whatever legal
values they have (assumption log 1). -/
opaque params : Params

end Sys2Proof.Config
end

