-- ==== Sys2Proof/Syntax.lean ====
section
/-! DEFINITION. The commands of the block: one constructor per row of spec/opcode_table.json (spec/30_encoding.md
R77, R78). A command is its ARG byte and its operand bytes `din`; LEN is `din.length`, but for `XCVR_RECV`, whose
LEN is a count with no operand bytes (R71, R74). An ARG or LEN outside R77's columns is still a command: it is
consumed and answered with an error (R79), so it is syntax here and its answer is in its meaning. -/

namespace Sys2Proof

/-- A command as a port has taken it whole (R71, R76). -/
inductive Instr where
  /-- OPC 0x00 (R250). -/
  | nop (arg : Byte) (din : Bytes)
  /-- OPC 0x10 (R105). -/
  | crcClear (arg : Byte) (din : Bytes)
  /-- OPC 0x11 (R106). -/
  | crcFeed (arg : Byte) (din : Bytes)
  /-- OPC 0x12 (R107). -/
  | crcRead (arg : Byte) (din : Bytes)
  /-- OPC 0x20 (R125). -/
  | frameEncode (arg : Byte) (din : Bytes)
  /-- OPC 0x21 (R128). -/
  | frameDecode (arg : Byte) (din : Bytes)
  /-- OPC 0x30 (R157). -/
  | parserPush (arg : Byte) (din : Bytes)
  /-- OPC 0x31 (R160). -/
  | parserReset (arg : Byte) (din : Bytes)
  /-- OPC 0x32 (R161). -/
  | parserLevel (arg : Byte) (din : Bytes)
  /-- OPC 0x40 (R181). -/
  | envEncode (arg : Byte) (din : Bytes)
  /-- OPC 0x41 (R183). -/
  | envDecode (arg : Byte) (din : Bytes)
  /-- OPC 0x50 (R214). -/
  | xcvrSend (arg : Byte) (din : Bytes)
  /-- OPC 0x51 (R220): LEN is the maximum count. -/
  | xcvrRecv (arg : Byte) (max : Half)
  /-- OPC 0x60 (R251). -/
  | cfgRead (arg : Byte) (din : Bytes)
  /-- OPC 0x61 (R253). -/
  | cfgWrite (arg : Byte) (din : Bytes)
  /-- Any OPC that R77 does not list (R78). -/
  | reserved (opc arg : Byte) (din : Bytes)
deriving DecidableEq, Repr

end Sys2Proof
end

