-- ==== Sys2Proof/WellFormed.lean ====
section
/-! DEFINITION. Which terms of `Instr` are commands a port can take: those the 4-byte header of
spec/30_encoding.md R71 can announce. Nothing here asks ARG or LEN to be legal (R77): an illegal one is a command
that is answered with an error (R79). -/

namespace Sys2Proof

/-- The opcodes of R77. -/
def definedOpcodes : Bytes :=
  [0x00, 0x10, 0x11, 0x12, 0x20, 0x21, 0x30, 0x31, 0x32, 0x40, 0x41, 0x50, 0x51, 0x60, 0x61]

/-- The operand bytes of a command (`din` of R76); `XCVR_RECV` has none (R74). -/
def Instr.din : Instr → Bytes
  | .nop _ d => d
  | .crcClear _ d => d
  | .crcFeed _ d => d
  | .crcRead _ d => d
  | .frameEncode _ d => d
  | .frameDecode _ d => d
  | .parserPush _ d => d
  | .parserReset _ d => d
  | .parserLevel _ d => d
  | .envEncode _ d => d
  | .envDecode _ d => d
  | .xcvrSend _ d => d
  | .xcvrRecv _ _ => []
  | .cfgRead _ d => d
  | .cfgWrite _ d => d
  | .reserved _ _ d => d

/-- A reserved command's opcode is not one of R77's (R78). -/
def Instr.opcodeOk : Instr → Bool
  | .reserved opc _ _ => !definedOpcodes.contains opc
  | .nop _ _ | .crcClear _ _ | .crcFeed _ _ | .crcRead _ _ | .frameEncode _ _ | .frameDecode _ _ => true
  | .parserPush _ _ | .parserReset _ _ | .parserLevel _ _ | .envEncode _ _ | .envDecode _ _ => true
  | .xcvrSend _ _ | .xcvrRecv _ _ | .cfgRead _ _ | .cfgWrite _ _ => true

/-- The operand bytes can be counted by a 16-bit LEN (R71). -/
def Instr.dinOk (i : Instr) : Bool := decide (i.din.length ≤ Config.lenFieldMax)

/-- A command that a header can announce: both checks pass. -/
def Instr.wf (i : Instr) : Bool := i.opcodeOk && i.dinOk

end Sys2Proof
end

