-- ==== Sys2Proof/Decode.lean ====
section
/-! DEFINITION. Byte-string helpers (spec/00_scope.md R12), the decoder of commands and its encoder (spec/30_encoding.md
R71, R73 to R78), and the table's words as bytes. Decoding is by OPC alone (R75) and total: a byte string holds a
whole command, or it is refused by name and the port holds (R76). -/

namespace Sys2Proof

/-! ## Byte strings (R12) -/

/-- `be(s)`: a byte string read as a big-endian unsigned number (R12). -/
def be (s : Bytes) : Nat := s.foldl (fun acc b => acc * 256 + b.toNat) 0

/-- The `n`-byte big-endian string of `v` (R12): `u16be` and `u32be` are its cases 2 and 4. -/
def beBytes : Nat → Nat → Bytes
  | 0, _ => []
  | n + 1, v => BitVec.ofNat 8 (v / 256 ^ n) :: beBytes n v

/-- `u16be(v)` (R12). -/
def u16be (v : Half) : Bytes := beBytes 2 v.toNat

/-- `u32be(v)` (R251). -/
def u32be (v : Word) : Bytes := beBytes 4 v.toNat

/-- `s[i..j]`, both ends included, empty when `j < i` (R12). -/
def slice (s : Bytes) (i j : Nat) : Bytes := (s.drop i).take (j + 1 - i)

/-! ## Decoding a command -/

/-- Why a byte string is not yet a whole command. Neither is an error of the block: the port holds (R76). -/
inductive DecodeError where
  /-- Fewer than the 4 header bytes are present. -/
  | headerIncomplete (present : Nat)
  /-- The header announces more operand bytes (R74) than are present. -/
  | operandsIncomplete (announced present : Nat)
deriving DecidableEq, Repr

/-- DINLEN (R74): 0 for `XCVR_RECV`, LEN for every other opcode, reserved ones included. -/
def dinLen (opc : Byte) (len : Half) : Nat := if opc = 0x51 then 0 else len.toNat

/-- The command of a header and its operand bytes, selected by OPC alone (R75, R77, R78). -/
def ofHeader (opc arg : Byte) (len : Half) (din : Bytes) : Instr :=
  match opc with
  | 0x00 => .nop arg din
  | 0x10 => .crcClear arg din
  | 0x11 => .crcFeed arg din
  | 0x12 => .crcRead arg din
  | 0x20 => .frameEncode arg din
  | 0x21 => .frameDecode arg din
  | 0x30 => .parserPush arg din
  | 0x31 => .parserReset arg din
  | 0x32 => .parserLevel arg din
  | 0x40 => .envEncode arg din
  | 0x41 => .envDecode arg din
  | 0x50 => .xcvrSend arg din
  | 0x51 => .xcvrRecv arg len
  | 0x60 => .cfgRead arg din
  | 0x61 => .cfgWrite arg din
  | _ => .reserved opc arg din

/-- Take one whole command from the front of a byte string, and give the bytes after it (R71, R74, R76). -/
def decode : Bytes → Except DecodeError (Instr × Bytes)
  | opc :: arg :: l1 :: l0 :: rest =>
    let len : Half := l1 ++ l0
    let n := dinLen opc len
    if rest.length < n then .error (.operandsIncomplete n rest.length)
    else .ok (ofHeader opc arg len (rest.take n), rest.drop n)
  | short => .error (.headerIncomplete short.length)

/-! ## Encoding a command -/

/-- The OPC byte of a command (R77). -/
def Instr.opcode : Instr → Byte
  | .nop _ _ => 0x00
  | .crcClear _ _ => 0x10
  | .crcFeed _ _ => 0x11
  | .crcRead _ _ => 0x12
  | .frameEncode _ _ => 0x20
  | .frameDecode _ _ => 0x21
  | .parserPush _ _ => 0x30
  | .parserReset _ _ => 0x31
  | .parserLevel _ _ => 0x32
  | .envEncode _ _ => 0x40
  | .envDecode _ _ => 0x41
  | .xcvrSend _ _ => 0x50
  | .xcvrRecv _ _ => 0x51
  | .cfgRead _ _ => 0x60
  | .cfgWrite _ _ => 0x61
  | .reserved opc _ _ => opc

/-- The ARG byte of a command (R71). -/
def Instr.argByte : Instr → Byte
  | .nop a _ => a
  | .crcClear a _ => a
  | .crcFeed a _ => a
  | .crcRead a _ => a
  | .frameEncode a _ => a
  | .frameDecode a _ => a
  | .parserPush a _ => a
  | .parserReset a _ => a
  | .parserLevel a _ => a
  | .envEncode a _ => a
  | .envDecode a _ => a
  | .xcvrSend a _ => a
  | .xcvrRecv a _ => a
  | .cfgRead a _ => a
  | .cfgWrite a _ => a
  | .reserved _ a _ => a

/-- The LEN field of a command (R71): its operand byte count, but for `XCVR_RECV`. -/
def Instr.lenField : Instr → Half
  | .nop _ d => BitVec.ofNat 16 d.length
  | .crcClear _ d => BitVec.ofNat 16 d.length
  | .crcFeed _ d => BitVec.ofNat 16 d.length
  | .crcRead _ d => BitVec.ofNat 16 d.length
  | .frameEncode _ d => BitVec.ofNat 16 d.length
  | .frameDecode _ d => BitVec.ofNat 16 d.length
  | .parserPush _ d => BitVec.ofNat 16 d.length
  | .parserReset _ d => BitVec.ofNat 16 d.length
  | .parserLevel _ d => BitVec.ofNat 16 d.length
  | .envEncode _ d => BitVec.ofNat 16 d.length
  | .envDecode _ d => BitVec.ofNat 16 d.length
  | .xcvrSend _ d => BitVec.ofNat 16 d.length
  | .xcvrRecv _ m => m
  | .cfgRead _ d => BitVec.ofNat 16 d.length
  | .cfgWrite _ d => BitVec.ofNat 16 d.length
  | .reserved _ _ d => BitVec.ofNat 16 d.length

/-- The header of a command: OPC, ARG and a big-endian LEN (R51, R71). -/
def Instr.header (i : Instr) : Bytes := i.opcode :: i.argByte :: u16be i.lenField

/-- The bytes a host sends for a command: the header, then the operand bytes (R71, R74). -/
def encode (i : Instr) : Bytes := i.header ++ i.din

/-! ## The table's words -/

/-- Byte `k` of an instruction whose bits are `w`: 32-bit words, each stored big-endian (R71), the first at the lowest
place. -/
def wordByte (w k : Nat) : Byte := BitVec.ofNat 8 (w >>> (32 * (k / 4) + 8 * (3 - k % 4)))

/-- The bytes of the instruction whose `nbits` bits are `w`, every bit above them 0: its header, then as many operand
bytes as that header announces (R74). -/
def tableBytes (nbits w : Nat) : Bytes :=
  let v := w % 2 ^ nbits
  let n := dinLen (wordByte v 0) (wordByte v 2 ++ wordByte v 3 : Half)
  (List.range (4 + n)).map (wordByte v)

/-- The instruction the decoder reads from the instruction whose `nbits` bits are `w`. -/
def decodeTableWord (nbits w : Nat) : Option Instr :=
  match decode (tableBytes nbits w) with
  | .ok (i, _) => some i
  | .error _ => none

end Sys2Proof
end

