-- ==== Sys2Proof/Machine/State.lean ====
section
/-! DEFINITION. The state of the block (spec/10_state.md R20 to R39), the plain data its agents exchange with the
outside, and the state after reset (spec/70_reset_and_hazards.md R301). -/

namespace Sys2Proof.Machine

/-! ## Responses -/

/-- The status codes of spec/60_exceptions.md R270. No other code exists, so none can be returned. -/
inductive Status where
  | ok
  | eOpcode
  | eArg
  | eShort
  | eLenMismatch
  | eSync
  | eLenRange
  | eExtShort
  | eCrc
  | eTooLong
  | ePtype
deriving DecidableEq, Repr

/-- A response before it is laid out in bytes (R72): RLEN is the length of `dout`. -/
structure Response where
  status : Status
  aux : Byte
  dout : Bytes
deriving DecidableEq, Repr

/-! ## The arbiter's data -/

/-- PHASE (R33). -/
inductive Phase where
  | idle
  | txSettle
  | txData
  | rxSettle
deriving DecidableEq, Repr

/-- DIR, the abstract direction of the line (R35). -/
inductive Direction where
  | receive
  | transmit
deriving DecidableEq, Repr

/-- The two logical direction-control outputs (R34). -/
inductive Pin where
  | rxe
  | txe
deriving DecidableEq, Repr

/-- The registers whose write is a line request (R203). -/
inductive LineReg where
  | ctrl
  | baud
  | settleUs
deriving DecidableEq, Repr

/-- A line request with its operands: what `PEND[p]` holds (R36). -/
inductive Request where
  | send (d : Bytes)
  | recv (m : Half)
  | cfgw (r : LineReg) (v : Word)
deriving DecidableEq, Repr

/-! ## Ports and parsers -/

/-- The state private to one port (R283): `CRC[p]` (R23), `CMD[p]` (R36) in two parts, the bytes taken from the host so
far and the whole command not yet answered, and `PEND[p]` (R36). -/
structure Port where
  /-- `CRC[p]`. -/
  crc : Byte
  /-- `CMD[p]`, first part: header and operand bytes the host has supplied and no command has consumed (R76, R301). -/
  inbuf : Bytes
  /-- `CMD[p]`, second part: the command the port is executing (R36). -/
  cmd : Option Instr
  /-- `PEND[p]`. -/
  pend : Option Request
deriving DecidableEq, Repr

/-- A port right after reset (R301). -/
def Port.reset : Port := { crc := 0x00, inbuf := [], cmd := none, pend := none }

/-- The parser instances 0 and 1 (R29). -/
inductive ParserId where
  | p0
  | p1
deriving DecidableEq, Repr

/-! ## What the outside sees and does -/

/-- A response as it left the block: on which port, and when (R72). -/
structure Answer where
  port : Nat
  time : Rat
  resp : Response
deriving DecidableEq, Repr

/-- One byte the block puts on the wire: its wire value and the interval it occupies (R208, R210). `cut` says that reset
ended it early (R312). -/
structure WireByte where
  value : Byte
  start : Rat
  stop : Rat
  cut : Bool
deriving DecidableEq, Repr

/-- One edge of a logical direction output (R34, R206, R212). -/
structure PinEdge where
  time : Rat
  pin : Pin
  level : Bool
deriving DecidableEq, Repr

/-- How the receiver has seen the byte that is now arriving (R218, R219): with RXE = 1 since its start bit; with RXE = 1
at its start bit and 0 since; or started while the receiver was off or the block in reset. -/
inductive RxWatch where
  | whole
  | broken
  | late
deriving DecidableEq, Repr

/-- One step of one agent (spec/00_scope.md R7), or one change of the reset input (R300). -/
inductive Event where
  /-- The host of port `p` supplies bytes. -/
  | host (p : Nat) (bs : Bytes)
  /-- `Port[p]` takes its next command, if it has one whole (R76). -/
  | port (p : Nat)
  /-- The arbiter grants port `p`'s line request (R204). -/
  | grant (p : Nat)
  /-- The arbiter ends its current phase (R207, R212, R213). -/
  | phaseEnd
  /-- `Line`: the peer's start bit (R218). -/
  | lineStart
  /-- `Line`: the peer's stop bit completes with wire value `v`; `framing` says that it was bad, and `drawn` is what the
  receiver makes of a byte R219 leaves open: any one byte, or nothing. -/
  | lineStop (v : Byte) (framing : Bool) (drawn : Option Byte)
  /-- `Clock`: `d` microseconds pass (R14). -/
  | clock (d : Rat)
  /-- RST is asserted (R300). -/
  | rstAssert
  /-- RST is released (R301). -/
  | rstRelease
deriving DecidableEq, Repr

/-! ## The state -/

/-- The state tuple of R20, and after it the model's own fields: the arguments of the step relation (`now`, and which
agent moves next) and the record of what the block has sent out. -/
structure State where
  /-- The ports 0..N_PORTS-1: `CRC[p]`, `CMD[p]`, `PEND[p]`. -/
  ports : List Port
  /-- CTRL (R24): bit 0 is INVERT. -/
  ctrl : Word
  /-- BAUD (R25). -/
  baud : Word
  /-- SETTLE_US (R26): bits 15:0 are SETTLE. -/
  settleUs : Word
  /-- RX_OVF (R32). -/
  rxOvf : Bool
  /-- `PBUF[0]` (R29). -/
  pbuf0 : Bytes
  /-- `PBUF[1]` (R29). -/
  pbuf1 : Bytes
  /-- RXFIFO (R31): wire values, the oldest first. -/
  rxfifo : Bytes
  /-- PHASE (R33). -/
  phase : Phase
  /-- DEADLINE (R33), in µs. -/
  deadline : Rat
  /-- OWNER (R33). -/
  owner : Option Nat
  /-- TXQ (R33). -/
  txq : Bytes
  /-- TXMASK (R33). -/
  txmask : Byte
  /-- Model's own: `now`, in µs (spec/00_scope.md R14). -/
  now : Rat
  /-- Model's own: the level of the reset input RST (R300). -/
  rst : Bool
  /-- Model's own: the port whose command is being executed, which `exec` serves. -/
  cur : Nat
  /-- Model's own: the peer's byte now on the wire, if any, as the receiver has seen it (R218). -/
  lineByte : Option RxWatch
  /-- Model's own: the agents' steps still to be taken, the next first. Any list is admitted (R278). -/
  sched : List Event
  /-- Model's own: every response sent, the oldest first. -/
  answers : List Answer
  /-- Model's own: every byte put on the wire, the oldest first. -/
  wire : List WireByte
  /-- Model's own: every edge of RXE and TXE, the oldest first. -/
  edges : List PinEdge
deriving DecidableEq, Repr

/-- The state of R301 for the parameters `P`, RST having been released at time 0 with nothing sent before. There are
N_PORTS ports, at least one (R9): the first is written out so that port 0 can be evaluated whatever N_PORTS is. -/
def State.resetWith (P : Config.Params) : State where
  ports := Port.reset :: List.replicate (P.nPorts - 1) Port.reset
  ctrl := 0
  baud := P.baudReset
  settleUs := P.settleReset.setWidth 32
  rxOvf := false
  pbuf0 := []
  pbuf1 := []
  rxfifo := []
  phase := .rxSettle
  deadline := (P.settleReset.toNat : Rat)
  owner := none
  txq := []
  txmask := 0x00
  now := 0
  rst := false
  cur := 0
  lineByte := none
  sched := []
  answers := []
  wire := []
  edges := []

/-- The machine right after reset (R301). -/
def State.reset : State := State.resetWith Config.params

/-! ## Why a step can stop -/

/-- The faults. -/
inductive Fault where
  /-- Raised by a meaning called for a port that the block does not have (`cur` is no index of `ports`; port numbers are
  0..N_PORTS-1, spec/20_memory.md R57). No step raises it: a port that does not exist takes none. Safe: the model
  stops where the hardware has no behaviour at all. -/
  | noSuchPort
deriving DecidableEq, Repr

/-- The refusals. -/
inductive Refusal where
  /-- Raised by `exec` for an instruction that has no meaning yet. No arm raises it in this model. Safe: the model stops
  where the hardware goes on. -/
  | notModelled (mnemonic : String)
deriving DecidableEq, Repr

end Sys2Proof.Machine
end

