-- ==== Sys2Proof/Machine/Operands.lean ====
section
/-! DEFINITION. What a command's ARG and operand bytes name: a parser instance, a register, a packet type, a register
value (spec/30_encoding.md R73, R77); the codes and bytes of a response (R72; spec/60_exceptions.md R270); and the two
tests every frame rule makes, on its sync byte and on its type (R83; spec/00_scope.md R8). -/

namespace Sys2Proof.Machine

/-! ## ARG -/

/-- ARG as a parser instance (R77): 0x00 or 0x01. -/
def parserArg (arg : Byte) : Option ParserId :=
  if arg = 0x00 then some .p0 else if arg = 0x01 then some .p1 else none

/-- The four registers (spec/20_memory.md R57). -/
inductive RegIndex where
  | ctrl
  | baud
  | settleUs
  | status
deriving DecidableEq, Repr

/-- ARG as a register index (R57): 0x00 to 0x03; 0x04 to 0xFF are reserved (spec/10_state.md R28). -/
def regArg (arg : Byte) : Option RegIndex :=
  if arg = 0x00 then some .ctrl
  else if arg = 0x01 then some .baud
  else if arg = 0x02 then some .settleUs
  else if arg = 0x03 then some .status
  else none

/-- A packet type of the envelope (R87). -/
def isPtype (t : Byte) : Bool := Config.ptypes.contains t

/-! ## Operand bytes -/

/-- The 32-bit value of `CFG_WRITE`: `be(din[0..3])` (R73). -/
def wordOperand (din : Bytes) : Word := BitVec.ofNat 32 (be din)

/-! ## Frames -/

/-- Membership in SYNC_SET (spec/00_scope.md R8). -/
def isSync (b : Byte) : Bool := Config.syncSet.contains b

/-- A frame type is extended if and only if it is at least 0x28 (R83). -/
def isExt (type : Byte) : Bool := decide (Config.extThreshold ≤ type.toNat)

/-! ## Responses -/

/-- The number of a status code (R270). -/
def Status.code : Status → Byte
  | .ok => 0x00
  | .eOpcode => 0x01
  | .eArg => 0x02
  | .eShort => 0x10
  | .eLenMismatch => 0x11
  | .eSync => 0x12
  | .eLenRange => 0x13
  | .eExtShort => 0x14
  | .eCrc => 0x15
  | .eTooLong => 0x16
  | .ePtype => 0x17

/-- RLEN, the number of result bytes in 16 bits (R72). -/
def Response.rlen (r : Response) : Half := BitVec.ofNat 16 r.dout.length

/-- A response as the bytes that leave the port: STATUS, AUX, RLEN big-endian, then the result bytes (R51, R72). -/
def Response.bytes (r : Response) : Bytes := r.status.code :: r.aux :: u16be r.rlen ++ r.dout

/-- An error response: AUX is 0x00 and there are no result bytes (R271). -/
def Response.error (e : Status) : Response := { status := e, aux := 0x00, dout := [] }

end Sys2Proof.Machine
end

