-- ==== Sys2Proof/Machine/Flags.lean ====
section
/-! DEFINITION. Everything the block computes as a flag or a view of its state: the direction outputs and DIR as
functions of PHASE (spec/10_state.md R34, R35), the register values as read, STATUS among them (spec/45_control.md
R252), and the AUX flags of `PARSER_PUSH` (spec/42_stream_parser.md R156). There are no condition codes (R37). -/

namespace Sys2Proof.Machine

/-! ## The line's direction (R34, R35) -/

/-- RXE as a function of PHASE (R34). -/
def Phase.rxe : Phase → Bool
  | .idle => true
  | .txSettle => false
  | .txData => false
  | .rxSettle => true

/-- TXE as a function of PHASE (R34). -/
def Phase.txe : Phase → Bool
  | .idle => false
  | .txSettle => true
  | .txData => true
  | .rxSettle => false

/-- DIR as a function of PHASE (R34). -/
def Phase.dir : Phase → Direction
  | .idle => .receive
  | .txSettle => .transmit
  | .txData => .transmit
  | .rxSettle => .receive

/-- BUSY as a function of PHASE (R34): 1 while PHASE is not IDLE. -/
def Phase.busy : Phase → Bool
  | .idle => false
  | .txSettle => true
  | .txData => true
  | .rxSettle => true

/-- RXE: the function of PHASE, and 1 while RST is asserted (spec/70_reset_and_hazards.md R300). -/
def State.rxe (s : State) : Bool := s.rst || s.phase.rxe

/-- TXE: the function of PHASE, and 0 while RST is asserted (R300). -/
def State.txe (s : State) : Bool := !s.rst && s.phase.txe

/-- DIR: the function of PHASE, and RECEIVE while RST is asserted (R300, R301). -/
def State.dir (s : State) : Direction := if s.rst then .receive else s.phase.dir

/-- The physical pins (R34): RXE and TXE with two pins, TXE alone with one. -/
def State.pins (P : Config.Params) (s : State) : List Bool :=
  match P.dirPins with
  | .two => [s.rxe, s.txe]
  | .one => [s.txe]

/-- The edges of the physical pins (R34): with one pin the two edges of a change are the one edge of TXE. -/
def State.pinEdges (P : Config.Params) (s : State) : List PinEdge :=
  match P.dirPins with
  | .two => s.edges
  | .one => s.edges.filter (fun e => e.pin = .txe)

/-! ## The registers as read (R252) -/

/-- CTRL.INVERT (R24). -/
def State.invert (s : State) : Bool := s.ctrl.getLsbD 0

/-- SETTLE_US.SETTLE, in µs (R26). -/
def State.settle (s : State) : Half := s.settleUs.setWidth 16

/-- A flag as a 32-bit value. -/
def flagWord (b : Bool) : Word := if b then 1 else 0

/-- STATUS as read (R27, R252): `len(RXFIFO) << 16 | RX_OVF << 2 | BUSY << 1 | DIR`. -/
def State.statusWord (s : State) : Word :=
  (BitVec.ofNat 32 s.rxfifo.length <<< 16) ||| (flagWord s.rxOvf <<< 2) ||| (flagWord s.phase.busy <<< 1)
    ||| flagWord (s.phase.dir = .transmit)

/-- `regval(r)` (R252): reserved bits read 0. -/
def State.regval (s : State) : RegIndex → Word
  | .ctrl => flagWord s.invert
  | .baud => s.baud
  | .settleUs => s.settle.setWidth 32
  | .status => s.statusWord

/-! ## The AUX byte of `PARSER_PUSH` (R156) -/

/-- NOSYNC: the buffer and the chunk together hold a byte, and none of SYNC_SET (R156). -/
def noSync (buf chunk : Bytes) : Bool := !(buf ++ chunk).isEmpty && !(buf ++ chunk).any isSync

/-- DROPPED: more bytes went in than came out or stayed (R156). -/
def dropped (buf chunk out buf' : Bytes) : Bool :=
  decide (out.length + buf'.length < buf.length + chunk.length)

/-- `NOSYNC << 7 | DROPPED << 6 | min(nf, 63)` (R156). -/
def pushAux (buf chunk out buf' : Bytes) (nf : Nat) : Byte :=
  BitVec.ofNat 8 ((noSync buf chunk).toNat * 128 + (dropped buf chunk out buf').toNat * 64 + min nf 63)

end Sys2Proof.Machine
end

