-- ==== Sys2Proof/Machine/Ops.lean ====
section
/-! DEFINITION. The named operations over the state: reading and writing a port, a parser buffer, a register, the FIFO;
sending a response; raising an error, which is the block's one exception (spec/60_exceptions.md R271, R274); and making
a line request (spec/44_transceiver.md R202). -/

namespace Sys2Proof.Machine

/-- What a meaning answers. -/
abbrev Result := Host.Outcome State Fault Refusal

/-! ## Ports -/

/-- `s` with port `p`'s record changed by `f`; nothing changes where there is no port `p`. -/
def State.modPort (s : State) (p : Nat) (f : Port → Port) : State := { s with ports := s.ports.modify p f }

/-- `CRC[cur]` (R23): a port reaches only its own accumulator. -/
def State.curCrc (s : State) : Byte :=
  match s.ports[s.cur]? with
  | some q => q.crc
  | none => 0

/-- `x[CRC[cur]] <- c` (R23). -/
def State.setCurCrc (s : State) (c : Byte) : State := s.modPort s.cur (fun q => { q with crc := c })

/-! ## Responses -/

/-- Port `p`'s outstanding command ends with response `r` (R36, R72): exactly one response, on the port that sent it. -/
def State.answer (s : State) (p : Nat) (r : Response) : State :=
  { s.modPort p (fun q => { q with cmd := none }) with answers := s.answers ++ [⟨p, s.now, r⟩] }

/-- `Respond(status, aux, dout)` on the port being served (spec/00_scope.md R13). -/
def respond (st : Status) (aux : Byte) (dout : Bytes) (s : State) : Result :=
  match s.ports[s.cur]? with
  | some _ => .next (s.answer s.cur ⟨st, aux, dout⟩)
  | none => .fault .noSuchPort

/-- `raise E` (R13, R271): the error response is the whole effect. It is the block's one exception: it saves nothing,
changes no mode and transfers control nowhere (R274), and there is no return from it, the port's next command being
the return (R275). -/
def raise (e : Status) (s : State) : Result := respond e 0x00 [] s

/-- `PEND[p] <- r; hold until the arbiter answers` (R202): the port's command stays outstanding. -/
def request (r : Request) (s : State) : Result :=
  match s.ports[s.cur]? with
  | some _ => .next (s.modPort s.cur (fun q => { q with pend := some r }))
  | none => .fault .noSuchPort

/-- `PEND[p] <- none`, at a grant (R206, R220, R225). -/
def State.clearPend (s : State) (p : Nat) : State := s.modPort p (fun q => { q with pend := none })

/-! ## Parser buffers -/

/-- `x[PBUF[i]]` (R29). -/
def State.pbuf (s : State) : ParserId → Bytes
  | .p0 => s.pbuf0
  | .p1 => s.pbuf1

/-- `x[PBUF[i]] <- b` (R29). -/
def State.setPbuf (s : State) (i : ParserId) (b : Bytes) : State :=
  match i with
  | .p0 => { s with pbuf0 := b }
  | .p1 => { s with pbuf1 := b }

/-! ## Registers -/

/-- The write of an arbitrated register (spec/45_control.md R254 to R256): reserved bits of `v` are ignored. -/
def State.writeLineReg (s : State) (r : LineReg) (v : Word) : State :=
  match r with
  | .ctrl => { s with ctrl := v &&& 0x00000001 }
  | .baud => { s with baud := v }
  | .settleUs => { s with settleUs := v &&& 0x0000FFFF }

/-- The write of STATUS (R257): bit 2 clears RX_OVF, and every other bit is ignored. -/
def State.writeStatus (s : State) (v : Word) : State :=
  { s with rxOvf := s.rxOvf && !v.getLsbD 2 }

/-! ## The receive FIFO -/

/-- A byte that is received (spec/44_transceiver.md R218): appended, or dropped with RX_OVF set when the FIFO is full
(R32). -/
def State.rxAccept (P : Config.Params) (s : State) (v : Byte) : State :=
  if s.rxfifo.length < P.rxFifoDepth then { s with rxfifo := s.rxfifo ++ [v] } else { s with rxOvf := true }

/-- The inversion mask of CTRL (R206, R220). -/
def State.invertMask (s : State) : Byte := if s.invert then 0xFF else 0x00

end Sys2Proof.Machine
end

