-- ==== Sys2Proof/Machine/Control.lean ====
section
/-! DEFINITION. The control commands NOP, CFG_READ and CFG_WRITE (spec/45_control.md), and the answer to a reserved
opcode (spec/30_encoding.md R78). -/

namespace Sys2Proof.Machine

/-- `NOP` (R250). -/
def execNop (arg : Byte) (din : Bytes) (s : State) : Result :=
  if arg ≠ 0x00 ∨ din.length ≠ 0 then raise .eArg s else respond .ok 0x00 [] s

/-- `CFG_READ` (R251): at once, in any phase, with no side effect. -/
def execCfgRead (arg : Byte) (din : Bytes) (s : State) : Result :=
  match regArg arg with
  | none => raise .eArg s
  | some r => if din.length ≠ 0 then raise .eArg s else respond .ok 0x00 (u32be (s.regval r)) s

/-- `CFG_WRITE` (R253): every check comes before the line request; STATUS is written at once. -/
def execCfgWrite (arg : Byte) (din : Bytes) (s : State) : Result :=
  match regArg arg with
  | none => raise .eArg s
  | some r =>
    if din.length ≠ 4 then raise .eArg s
    else
      let v := wordOperand din
      match r with
      | .ctrl => request (.cfgw .ctrl v) s
      | .baud => if v = 0 then raise .eArg s else request (.cfgw .baud v) s
      | .settleUs => request (.cfgw .settleUs v) s
      | .status => respond .ok 0x00 [] (s.writeStatus v)

/-- A reserved opcode (R78): its operand bytes are consumed, ARG and LEN are not checked, no state is written. -/
def execReserved (_opc _arg : Byte) (_din : Bytes) (s : State) : Result := raise .eOpcode s

end Sys2Proof.Machine
end

