-- ==== Sys2Proof/Machine/EnvelopeCodec.lean ====
section
/-! DEFINITION. The UDP envelope codec (spec/43_envelope_codec.md) and the commands ENV_ENCODE and ENV_DECODE. Both
functions are pure; the timestamp is copied and never read (R185), the payload is opaque (R186). -/

namespace Sys2Proof.Machine

/-- `env_encode(t, ts, q)` (R180). -/
def envEncode (t : Byte) (ts q : Bytes) : Except Status Bytes :=
  if !isPtype t then .error .ePtype
  else if Config.envPayloadMax < q.length then .error .eTooLong
  else .ok (t :: ts ++ u16be (BitVec.ofNat 16 q.length) ++ q)

/-- The parts of an envelope (R182). -/
structure Envelope where
  ptype : Byte
  ts : Bytes
  payload : Bytes
deriving DecidableEq, Repr

/-- `env_decode(e)` (R182), its checks in the rule's order. -/
def envDecode (e : Bytes) : Except Status Envelope :=
  if e.length < Config.envHdrLen then .error .eShort
  else
    let d := be (slice e 9 10)
    if d ≠ e.length - Config.envHdrLen then .error .eLenMismatch
    else if !isPtype (e.getD 0 0) then .error .ePtype
    else if Config.envPayloadMax < d then .error .eTooLong
    else .ok ⟨e.getD 0 0, slice e 1 8, e.drop 11⟩

/-- `ENV_ENCODE` (R181): the packet type is checked before the length. -/
def execEnvEncode (arg : Byte) (din : Bytes) (s : State) : Result :=
  if !isPtype arg then raise .ePtype s
  else if din.length < Config.tsLen then raise .eShort s
  else
    match envEncode arg (slice din 0 7) (din.drop 8) with
    | .error e => raise e s
    | .ok r => respond .ok 0x00 r s

/-- `ENV_DECODE` (R183): AUX is the packet type. -/
def execEnvDecode (arg : Byte) (din : Bytes) (s : State) : Result :=
  if arg ≠ 0x00 then raise .eArg s
  else
    match envDecode din with
    | .error e => raise e s
    | .ok v => respond .ok v.ptype (v.ts ++ v.payload) s

end Sys2Proof.Machine
end

