-- ==== Sys2Proof/Machine/Crc.lean ====
section
/-! DEFINITION. The CRC unit (spec/40_crc.md): CRC-8 with polynomial 0xD5, and the commands CRC_CLEAR, CRC_FEED and
CRC_READ over the issuing port's accumulator. -/

namespace Sys2Proof.Machine

/-- One of the eight shifts of R100: the x^8 term shifted out is dropped. -/
def crc8Shift (c : Byte) : Byte := if c.msb then (c <<< 1) ^^^ Config.crcPoly else c <<< 1

/-- `crc8_step(c, b)` (R100). -/
def crc8Step (c b : Byte) : Byte := Nat.repeat crc8Shift 8 (c ^^^ b)

/-- `crc8(s, c0)`: the left fold of the step, with no final XOR (R101, R102). -/
def crc8From (c0 : Byte) (s : Bytes) : Byte := s.foldl crc8Step c0

/-- `crc8(s)`, from the initial value 0x00 (R101). -/
def crc8 (s : Bytes) : Byte := crc8From Config.crcInit s

/-- `CRC_CLEAR` (R105). -/
def execCrcClear (arg : Byte) (din : Bytes) (s : State) : Result :=
  if arg ≠ 0x00 ∨ din.length ≠ 0 then raise .eArg s else respond .ok 0x00 [] (s.setCurCrc 0x00)

/-- `CRC_FEED` (R106). -/
def execCrcFeed (arg : Byte) (din : Bytes) (s : State) : Result :=
  if arg ≠ 0x00 then raise .eArg s
  else
    let c := crc8From s.curCrc din
    respond .ok c [] (s.setCurCrc c)

/-- `CRC_READ` (R107). -/
def execCrcRead (arg : Byte) (din : Bytes) (s : State) : Result :=
  if arg ≠ 0x00 ∨ din.length ≠ 0 then raise .eArg s else respond .ok s.curCrc [] s

end Sys2Proof.Machine
end

