-- ==== Sys2Proof/Machine/FrameCodec.lean ====
section
/-! DEFINITION. The frame codec (spec/41_frame_codec.md): field strings to wire frames and back, and the commands
FRAME_ENCODE and FRAME_DECODE. Both functions are pure; their CRC is private and never touches `CRC[p]` (R23). -/

namespace Sys2Proof.Machine

/-- `frame_encode(d)` (R122), its checks in the rule's order. -/
def frameEncode : Bytes → Except Status Bytes
  | sync :: type :: rest =>
    let d := sync :: type :: rest
    let body := type :: rest
    if !isSync sync then .error .eSync
    else if isExt type && decide (d.length < 4) then .error .eExtShort
    else if Config.lenMax < d.length then .error .eTooLong
    else .ok (sync :: BitVec.ofNat 8 d.length :: body ++ [crc8 body])
  | _ => .error .eShort

/-- `frame_decode(f)` (R124), its checks in the rule's order: the field string and the extended flag. -/
def frameDecode (f : Bytes) : Except Status (Bytes × Bool) :=
  if f.length < Config.frameMinBytes then .error .eShort
  else
    let len := (f.getD 1 0).toNat
    let sync := f.getD 0 0
    let type := f.getD 2 0
    if len + 2 ≠ f.length then .error .eLenMismatch
    else if !isSync sync then .error .eSync
    else if len < Config.lenMin ∨ Config.lenMax < len then .error .eLenRange
    else if isExt type && decide (len < Config.extLenMin) then .error .eExtShort
    else if crc8 (slice f 2 len) ≠ f.getD (len + 1) 0 then .error .eCrc
    else .ok (sync :: slice f 2 len, isExt type)

/-- The sliced bytes are a valid frame (R121). -/
def frameValid (f : Bytes) : Bool :=
  match frameDecode f with
  | .ok _ => true
  | .error _ => false

/-- `FRAME_ENCODE` (R125). -/
def execFrameEncode (arg : Byte) (din : Bytes) (s : State) : Result :=
  if arg ≠ 0x00 then raise .eArg s
  else
    match frameEncode din with
    | .error e => raise e s
    | .ok r => respond .ok 0x00 r s

/-- `FRAME_DECODE` (R128): AUX bit 0 is the extended flag. -/
def execFrameDecode (arg : Byte) (din : Bytes) (s : State) : Result :=
  if arg ≠ 0x00 then raise .eArg s
  else
    match frameDecode din with
    | .error e => raise e s
    | .ok (d, ext) => respond .ok (if ext then 0x01 else 0x00) d s

end Sys2Proof.Machine
end

