-- ==== Sys2Proof/Machine/StreamParser.lean ====
section
/-! DEFINITION. The resynchronizing stream parser (spec/42_stream_parser.md) and the commands PARSER_PUSH, PARSER_RESET
and PARSER_LEVEL over its two instances. -/

namespace Sys2Proof.Machine

/-- What a push gives (R151): the new buffer, the valid frames concatenated, and how many they are. -/
structure Parsed where
  buf : Bytes
  out : Bytes
  nf : Nat
deriving DecidableEq, Repr

/-- `parser_push`'s loop (R151) on the buffer `b`. Every pass that does not exit makes `b` strictly shorter (R153), so
`b.length` passes and one more are enough; that many are allowed. -/
def parserLoop : Nat → Bytes → Parsed
  | 0, b => ⟨b, [], 0⟩
  | n + 1, b =>
    match b.dropWhile (fun x => !isSync x) with
    | [] => ⟨[], [], 0⟩
    | [x] => ⟨[x], [], 0⟩
    | x :: l :: rest =>
      let len := l.toNat
      if len < Config.lenMin ∨ Config.lenMax < len then parserLoop n (l :: rest)
      else if rest.length < len then ⟨x :: l :: rest, [], 0⟩
      else
        let f := x :: l :: rest.take len
        let r := parserLoop n (rest.drop len)
        if frameValid f then ⟨r.buf, f ++ r.out, r.nf + 1⟩ else r

/-- The loop with passes enough for `b`. -/
def parserScan (b : Bytes) : Parsed := parserLoop (b.length + 1) b

/-- `parser_push(B, c)` (R151). -/
def parserPush (buf chunk : Bytes) : Parsed := parserScan (buf ++ chunk)

/-- R151 applied to one operand byte at a time, the frames concatenated: how the hardware does a push (R155). -/
def parserFeed (buf : Bytes) : Bytes → Parsed
  | [] => ⟨buf, [], 0⟩
  | x :: chunk =>
    let a := parserPush buf [x]
    let r := parserFeed a.buf chunk
    ⟨r.buf, a.out ++ r.out, a.nf + r.nf⟩

/-- `PARSER_PUSH` (R157). -/
def execParserPush (arg : Byte) (din : Bytes) (s : State) : Result :=
  match parserArg arg with
  | none => raise .eArg s
  | some i =>
    if Config.pushMax < din.length then raise .eArg s
    else
      let r := parserPush (s.pbuf i) din
      respond .ok (pushAux (s.pbuf i) din r.out r.buf r.nf) r.out (s.setPbuf i r.buf)

/-- `PARSER_RESET` (R160). -/
def execParserReset (arg : Byte) (din : Bytes) (s : State) : Result :=
  match parserArg arg with
  | none => raise .eArg s
  | some i => if din.length ≠ 0 then raise .eArg s else respond .ok 0x00 [] (s.setPbuf i [])

/-- `PARSER_LEVEL` (R161). -/
def execParserLevel (arg : Byte) (din : Bytes) (s : State) : Result :=
  match parserArg arg with
  | none => raise .eArg s
  | some i =>
    if din.length ≠ 0 then raise .eArg s else respond .ok (BitVec.ofNat 8 (s.pbuf i).length) [] s

end Sys2Proof.Machine
end

