-- ==== Sys2Proof/Machine/Transceiver.lean ====
section
/-! DEFINITION. The commands of the half-duplex transceiver, XCVR_SEND and XCVR_RECV (spec/44_transceiver.md R214,
R220). Each makes a line request and holds; the arbiter's steps that grant, run and answer it are in
Machine/Arbiter.lean. -/

namespace Sys2Proof.Machine

/-- `XCVR_SEND` (R214). -/
def execXcvrSend (arg : Byte) (din : Bytes) (s : State) : Result :=
  if arg ≠ 0x00 then raise .eArg s else request (.send din) s

/-- `XCVR_RECV` (R220). -/
def execXcvrRecv (arg : Byte) (max : Half) (s : State) : Result :=
  if arg ≠ 0x00 then raise .eArg s else request (.recv max) s

end Sys2Proof.Machine
end

