-- ==== Sys2Proof/Machine/Dispatch.lean ====
section
/-! DEFINITION. The meaning of every command (spec/30_encoding.md R77, R78), one arm each. -/

namespace Sys2Proof.Machine

def exec (i : Instr) (s : State) : Host.Outcome State Fault Refusal :=
  match i with
  | .nop arg din => Sys2Proof.Machine.execNop arg din s
  | .crcClear arg din => Sys2Proof.Machine.execCrcClear arg din s
  | .crcFeed arg din => Sys2Proof.Machine.execCrcFeed arg din s
  | .crcRead arg din => Sys2Proof.Machine.execCrcRead arg din s
  | .frameEncode arg din => Sys2Proof.Machine.execFrameEncode arg din s
  | .frameDecode arg din => Sys2Proof.Machine.execFrameDecode arg din s
  | .parserPush arg din => Sys2Proof.Machine.execParserPush arg din s
  | .parserReset arg din => Sys2Proof.Machine.execParserReset arg din s
  | .parserLevel arg din => Sys2Proof.Machine.execParserLevel arg din s
  | .envEncode arg din => Sys2Proof.Machine.execEnvEncode arg din s
  | .envDecode arg din => Sys2Proof.Machine.execEnvDecode arg din s
  | .xcvrSend arg din => Sys2Proof.Machine.execXcvrSend arg din s
  | .xcvrRecv arg max => Sys2Proof.Machine.execXcvrRecv arg max s
  | .cfgRead arg din => Sys2Proof.Machine.execCfgRead arg din s
  | .cfgWrite arg din => Sys2Proof.Machine.execCfgWrite arg din s
  | .reserved opc arg din => Sys2Proof.Machine.execReserved opc arg din s

end Sys2Proof.Machine
end

