-- ==== Sys2Proof/Machine/Arbiter.lean ====
section
/-! DEFINITION. The steps of the arbiter (spec/44_transceiver.md): the grants of the three kinds of line request, and
the three ends of a phase that carry a send through settle, data and settle. A step that is not enabled changes
nothing. -/

namespace Sys2Proof.Machine

/-! ## Time on the wire (R201) -/

/-- `T_BYTE = BITS_PER_BYTE × 1,000,000 / BAUD` µs, an exact rational (R201). -/
def tByte (P : Config.Params) (baud : Word) : Rat := ((P.bitsPerByte * 1000000 : Nat) : Rat) / (baud.toNat : Rat)

/-- `T_WIRE(n) = n × T_BYTE` (R201). -/
def tWire (P : Config.Params) (baud : Word) (n : Nat) : Rat := (n : Rat) * tByte P baud

/-- The bytes of one send on the wire (R208, R210): from time `t`, one after the other with no idle time, each XORed
with the mask. -/
def emission (mask : Byte) (tb : Rat) : Rat → Bytes → List WireByte
  | _, [] => []
  | t, b :: bs => ⟨b ^^^ mask, t, t + tb, false⟩ :: emission mask tb (t + tb) bs

/-! ## Edges of the direction outputs -/

/-- RXE falls, then TXE rises (R206). -/
def edgesToTransmit (t : Rat) : List PinEdge := [⟨t, .rxe, false⟩, ⟨t, .txe, true⟩]

/-- TXE falls, then RXE rises (R212). -/
def edgesToReceive (t : Rat) : List PinEdge := [⟨t, .txe, false⟩, ⟨t, .rxe, true⟩]

/-- What the receiver makes of the arriving byte when RXE falls: no byte is received whole then (R218). -/
def RxWatch.onRxeFall : RxWatch → RxWatch
  | .whole => .broken
  | .broken => .broken
  | .late => .late

/-! ## Grants (R204) -/

/-- The grant of `XCVR_SEND` from port `p` with operand `d` (R206). -/
def State.grantSend (s : State) (p : Nat) (d : Bytes) : State :=
  { s.clearPend p with
    owner := some p
    txq := d
    txmask := s.invertMask
    phase := .txSettle
    deadline := s.now + (s.settle.toNat : Rat)
    edges := s.edges ++ edgesToTransmit s.now
    lineByte := s.lineByte.map RxWatch.onRxeFall }

/-- The bytes a receive poll returns (R220, R221): the oldest `min(m, len(RXFIFO))`, inverted when CTRL.INVERT is 1. -/
def State.polled (s : State) (m : Half) : Bytes := (s.rxfifo.take m.toNat).map (fun b => b ^^^ s.invertMask)

/-- The grant of `XCVR_RECV` from port `p` with count `m`, and its answer (R220): PHASE does not change. -/
def State.grantRecv (s : State) (p : Nat) (m : Half) : State :=
  { (s.clearPend p).answer p ⟨.ok, 0x00, s.polled m⟩ with rxfifo := s.rxfifo.drop m.toNat }

/-- The grant of an arbitrated `CFG_WRITE` from port `p`, and its answer (R225): PHASE stays IDLE. -/
def State.grantCfgw (s : State) (p : Nat) (r : LineReg) (v : Word) : State :=
  ((s.clearPend p).writeLineReg r v).answer p ⟨.ok, 0x00, []⟩

/-- Serve the request of port `p`. -/
def State.serve (s : State) (p : Nat) : Request → State
  | .send d => s.grantSend p d
  | .recv m => s.grantRecv p m
  | .cfgw r v => s.grantCfgw p r v

/-- `PEND[p]`. -/
def State.pend (s : State) (p : Nat) : Option Request :=
  match s.ports[p]? with
  | some q => q.pend
  | none => none

/-- The arbiter grants port `p` (R204): enabled when PHASE = IDLE and `PEND[p]` holds a request; not while RST is
asserted (spec/70_reset_and_hazards.md R300). -/
def State.grant (s : State) (p : Nat) : State :=
  if s.rst ∨ s.phase ≠ .idle then s
  else
    match s.pend p with
    | none => s
    | some r => s.serve p r

/-! ## Ends of phases -/

/-- End of transmit settle (R207): the data starts now and DEADLINE is the end of its last stop bit (R208). -/
def State.endTxSettle (P : Config.Params) (s : State) : State :=
  { s with
    phase := .txData
    deadline := s.now + tWire P s.baud s.txq.length
    wire := s.wire ++ emission s.txmask (tByte P s.baud) s.now s.txq }

/-- End of transmit (R212), not before the last bit has left the wire (R211). -/
def State.endTxData (s : State) : State :=
  { s with
    txq := []
    phase := .rxSettle
    deadline := s.now + (s.settle.toNat : Rat)
    edges := s.edges ++ edgesToReceive s.now }

/-- End of receive settle (R213): the owner, if there is one, is answered and releases the line. -/
def State.endRxSettle (s : State) : State :=
  match s.owner with
  | some q => { s.answer q ⟨.ok, 0x00, []⟩ with owner := none, phase := .idle }
  | none => { s with phase := .idle }

/-- The arbiter's timed step: enabled when a phase runs and `now ≥ DEADLINE` (R207, R211, R213), RST not asserted. -/
def State.phaseEndEnabled (s : State) : Bool :=
  !s.rst && decide (s.phase ≠ .idle) && decide (s.deadline ≤ s.now)

/-- The arbiter ends its phase when it may. -/
def State.phaseEnd (P : Config.Params) (s : State) : State :=
  if s.phaseEndEnabled then
    match s.phase with
    | .idle => s
    | .txSettle => s.endTxSettle P
    | .txData => s.endTxData
    | .rxSettle => s.endRxSettle
  else s

end Sys2Proof.Machine
end

