-- ==== Sys2Proof/Machine/Line.lean ====
section
/-! DEFINITION. The steps of the outside: the peer on the serial line (spec/44_transceiver.md R218, R219), the clock
(spec/00_scope.md R14), and the reset input (spec/70_reset_and_hazards.md R300, R301). -/

namespace Sys2Proof.Machine

/-! ## The line -/

/-- The peer's start bit. It is seen by the receiver when RXE = 1 and RST is not asserted (R218, R300). A byte already on
the wire occupies it: then there is no start. -/
def State.lineStart (s : State) : State :=
  match s.lineByte with
  | some _ => s
  | none => { s with lineByte := some (if s.rxe && !s.rst then .whole else .late) }

/-- What the receiver takes from a byte whose stop bit completes with RXE = 1 (R218, R219): the wire value, when RXE was
1 throughout and the stop bit was good; nothing, when RXE fell in between; and otherwise what was drawn.
DEDUCED, unsafe (assumption log 6): a byte with a good stop bit, during which RXE fell and rose again, is not received.
DESIGN CHOICE, unsafe (assumption log 18): nor is such a byte when it has a framing error as well; the draw is ignored. -/
def received (w : RxWatch) (v : Byte) (framing : Bool) (drawn : Option Byte) : Option Byte :=
  match w with
  | .whole => if framing then drawn else some v
  | .broken => none
  | .late => drawn

/-- The peer's stop bit completes (R218, R219): nothing is received with RXE = 0, or while RST is asserted (R300). -/
def State.lineStop (P : Config.Params) (s : State) (v : Byte) (framing : Bool) (drawn : Option Byte) : State :=
  match s.lineByte with
  | none => s
  | some w =>
    let t : State := { s with lineByte := none }
    if s.rst || !s.rxe then t
    else
      match received w v framing drawn with
      | none => t
      | some x => t.rxAccept P x

/-! ## The clock -/

/-- `d` microseconds pass; time never decreases (R14). -/
def State.clock (s : State) (d : Rat) : State := if 0 ≤ d then { s with now := s.now + d } else s

/-! ## The reset input -/

/-- The wire when RST is asserted at `t` (R300, R312): bytes that have ended stay, the byte being sent is cut at `t`, and
no later byte is sent. -/
def cutWire (t : Rat) : List WireByte → List WireByte
  | [] => []
  | b :: bs =>
    if b.stop ≤ t then b :: cutWire t bs
    else if b.start < t then { b with stop := t, cut := true } :: cutWire t bs
    else cutWire t bs

/-- RST is asserted (R300): TXE = 0 and RXE = 1 at once, the transmitter off first (R224), and the wire is not driven. A
byte of the peer that is on the wire now has been seen only in part. -/
def State.rstAssert (s : State) : State :=
  if s.rst then s
  else
    { s with
      rst := true
      wire := cutWire s.now s.wire
      edges := if s.phase.txe then s.edges ++ edgesToReceive s.now else s.edges
      lineByte := s.lineByte.map (fun _ => .late) }

/-- RST is released at the time `now` (R301): every element of R20 takes its value after reset. -/
def State.rstRelease (P : Config.Params) (s : State) : State :=
  if s.rst then
    { State.resetWith P with
      deadline := s.now + (P.settleReset.toNat : Rat)
      now := s.now
      cur := s.cur
      lineByte := s.lineByte
      sched := s.sched
      answers := s.answers
      wire := s.wire
      edges := s.edges }
  else s

end Sys2Proof.Machine
end

