-- ==== Sys2Proof/Machine/Agents.lean ====
section
/-! DEFINITION. The agents of the block (spec/00_scope.md R7) and their one step. Which agent moves next is read from
`sched`, plain data that nothing constrains: every interleaving the spec admits is the one of some list
(spec/60_exceptions.md R278; assumption log 2). A step that is not enabled changes nothing. -/

namespace Sys2Proof.Machine

/-- The host of port `p` supplies bytes (spec/30_encoding.md R76); they are lost while RST is asserted
(spec/70_reset_and_hazards.md R300, R301). -/
def State.hostBytes (s : State) (p : Nat) (bs : Bytes) : State :=
  if s.rst then s else s.modPort p (fun q => { q with inbuf := q.inbuf ++ bs })

/-- Port `p` takes its next command whole (R76): the command, and the state in which it is `CMD[p]` and its bytes are
consumed. None when RST is asserted, the port does not exist, a command is still outstanding (spec/10_state.md R36), or
the bytes are not all there (the port holds). -/
def State.fetch (s : State) (p : Nat) : Option (Instr × State) :=
  if s.rst then none
  else
    match s.ports[p]? with
    | none => none
    | some q =>
      match q.cmd with
      | some _ => none
      | none =>
        match decode q.inbuf with
        | .error _ => none
        | .ok (i, rest) =>
          some (i, { s with cur := p, ports := s.ports.set p { q with inbuf := rest, cmd := some i } })

/-- `Port[p]` executes its next command, or holds (R76). -/
def State.portStep (s : State) (p : Nat) : Result :=
  match s.fetch p with
  | some (i, t) => exec i t
  | none => .next s

/-- One step of one agent. -/
def agentStep (P : Config.Params) (e : Event) (s : State) : Result :=
  match e with
  | .host p bs => .next (s.hostBytes p bs)
  | .port p => s.portStep p
  | .grant p => .next (s.grant p)
  | .phaseEnd => .next (s.phaseEnd P)
  | .lineStart => .next s.lineStart
  | .lineStop v framing drawn => .next (s.lineStop P v framing drawn)
  | .clock d => .next (s.clock d)
  | .rstAssert => .next s.rstAssert
  | .rstRelease => .next (s.rstRelease P)

/-- One step of the block with parameters `P`: the agent that `sched` names moves; with none named, none does. -/
def stepWith (P : Config.Params) (s : State) : Result :=
  match s.sched with
  | [] => .next s
  | e :: rest => agentStep P e { s with sched := rest }

/-- `s` with port 0 free and holding just the bytes `bs`, and `Port[0]` the next agent to move. -/
def State.withPortInput (s : State) (bs : Bytes) : State :=
  let q : Port :=
    match s.ports[0]? with
    | some q => { q with inbuf := bs, cmd := none, pend := none }
    | none => { Port.reset with inbuf := bs }
  { s with
    ports := q :: s.ports.drop 1
    owner := if s.owner = some 0 then none else s.owner
    rst := false
    sched := .port 0 :: s.sched }

end Sys2Proof.Machine
end

