-- ==== Sys2Proof/Machine/Step.lean ====
section
/-! DEFINITION. One step of the machine, and the state whose next step runs a given instruction. -/

namespace Sys2Proof.Machine

/-- One step of the block (spec/00_scope.md R7), for the parameters it is built with (R9). -/
def step (s : State) : Host.Outcome State Fault Refusal := stepWith Config.params s

/-- `s` with the instruction whose `nbits` bits are `w` supplied whole on port 0, which moves next. The block fetches no
program (spec/20_memory.md R64): a command exists only while its port presents it (assumption log 3). -/
def State.withFetchWord (s : State) (nbits w : Nat) : State := s.withPortInput (tableBytes nbits w)

end Sys2Proof.Machine
end

