-- ==== Sys2Proof/Machine/Pseudo.lean ====
section
/-! DEFINITION. What the spec gives the host of a port: the pseudo-commands of spec/30_encoding.md R89, each the
commands it stands for, and the boot order of spec/70_reset_and_hazards.md R305. A pseudo-command whose second command
depends on the answer to the first is that first command and the host's choice on its answer. -/

namespace Sys2Proof.Machine

/-- `CRC_OF [s]` (R89). -/
def pseudoCrcOf (s : Bytes) : List Instr := [.crcClear 0x00 [], .crcFeed 0x00 s]

/-- `CLEAR_RX_OVF` (R89). -/
def pseudoClearRxOvf : Instr := .cfgWrite 0x03 [0x00, 0x00, 0x00, 0x04]

/-- `SET_INVERT v` (R89). -/
def pseudoSetInvert (v : Bool) : Instr := .cfgWrite 0x00 (u32be (if v then 1 else 0))

/-- A command, and what the host sends next on its answer, if anything. -/
structure Branching where
  first : Instr
  next : Response → Option Instr

/-- `SEND_FRAME [d]` (R89): the frame is sent if its encoding answered OK. -/
def pseudoSendFrame (d : Bytes) : Branching where
  first := .frameEncode 0x00 d
  next r := if r.status = .ok then some (.xcvrSend 0x00 r.dout) else none

/-- `RELAY_ENV [e]` (R89): a CRSF_DATA envelope's payload goes to parser 1, without its 8 timestamp bytes. -/
def pseudoRelayEnv (e : Bytes) : Branching where
  first := .envDecode 0x00 e
  next r := if r.status = .ok ∧ r.aux = 0x01 then some (.parserPush 0x01 (r.dout.drop 8)) else none

/-- Steps 2 to 6 of the boot order (R305): polarity, rate, settle time, one draining poll of `m` bytes (repeated until it
returns none), the overflow flag, the two parsers. -/
def bootCommands (invert : Bool) (baud : Word) (settle : Half) (m : Half) : List Instr :=
  [pseudoSetInvert invert, .cfgWrite 0x01 (u32be baud), .cfgWrite 0x02 (u32be (settle.setWidth 32)),
    .xcvrRecv 0x00 m, pseudoClearRxOvf, .parserReset 0x00 [], .parserReset 0x01 []]

end Sys2Proof.Machine
end

