-- ==== Sys2Proof/Safety.lean ====
section
/-! DEFINITION. What the claims speak of: runs of the block under a list or an infinite stream of agents' steps, the
fairness of spec/44_transceiver.md R226, the invariants of the state, and the state in which a host may assert RST
(spec/70_reset_and_hazards.md R312, R317). -/

namespace Sys2Proof.Machine

/-! ## Runs -/

/-- The steps of `es`, one after the other, stopping at the first fault or refusal. -/
def runEvents (P : Config.Params) : List Event → State → Result
  | [], s => .next s
  | e :: es, s =>
    match agentStep P e s with
    | .next t => runEvents P es t
    | .fault r => .fault r
    | .refused r => .refused r

/-- The state after the first `n` steps of the stream `ev`. -/
def follow (P : Config.Params) (ev : Nat → Event) (s : State) : Nat → State
  | 0 => s
  | n + 1 =>
    match agentStep P (ev n) (follow P ev s n) with
    | .next t => t
    | .fault _ => follow P ev s n
    | .refused _ => follow P ev s n

/-- Port `p`'s request could be granted: PHASE = IDLE while `PEND[p]` holds it (R204). -/
def State.grantable (s : State) (p : Nat) : Bool := decide (s.phase = .idle) && (s.pend p).isSome

/-- R226 of a run in which RST is never asserted: time grows without bound, an arbiter step that stays enabled is taken,
and a request that is grantable infinitely often is granted. -/
structure Fair (P : Config.Params) (ev : Nat → Event) (s : State) : Prop where
  noReset : ∀ n, ev n ≠ .rstAssert
  timeDiverges : ∀ t : Rat, ∃ n, t ≤ (follow P ev s n).now
  phasesEnd : ∀ n, (∀ m, n ≤ m → (follow P ev s m).phaseEndEnabled = true) → ∃ m, n ≤ m ∧ ev m = .phaseEnd
  grants : ∀ p n, (∀ k, n ≤ k → ∃ m, k ≤ m ∧ (follow P ev s m).grantable p = true) →
    ∃ m, n ≤ m ∧ ev m = .grant p ∧ (follow P ev s m).grantable p = true

/-! ## The parser buffers and the FIFO -/

/-- The buffer invariant of spec/42_stream_parser.md R153 and spec/10_state.md R30. -/
def bufferOk : Bytes → Bool
  | [] => true
  | [x] => isSync x
  | x :: l :: rest =>
    isSync x && decide (Config.lenMin ≤ l.toNat) && decide (l.toNat ≤ Config.lenMax) && decide (rest.length < l.toNat)

/-- R30 of both instances, and R31's bound on RXFIFO. -/
def BuffersOk (P : Config.Params) (s : State) : Prop :=
  bufferOk s.pbuf0 = true ∧ bufferOk s.pbuf1 = true ∧ s.rxfifo.length ≤ P.rxFifoDepth

/-! ## The registers, the arbiter and the ports -/

/-- The registers hold legal values (R24 to R26): reserved bits are 0 and BAUD is not. -/
def RegistersOk (s : State) : Prop :=
  s.ctrl &&& 0xFFFFFFFE = 0 ∧ s.baud ≠ 0 ∧ s.settleUs &&& 0xFFFF0000 = 0

/-- What OWNER, TXQ and TXMASK hold in each phase (R33): a send owns the line through TX_SETTLE, TX_DATA and its
RX_SETTLE; TXQ is empty outside TX_SETTLE and TX_DATA. -/
def ArbiterOk (s : State) : Prop :=
  (s.txmask = 0x00 ∨ s.txmask = 0xFF) ∧
  match s.phase with
  | .idle => s.owner = none ∧ s.txq = []
  | .txSettle => s.owner.isSome = true
  | .txData => s.owner.isSome = true
  | .rxSettle => s.txq = []

/-- The line request that a command makes, if it makes one (R203; spec/45_control.md R253). -/
def requestOf : Instr → Option Request
  | .xcvrSend arg d => if arg = 0x00 then some (.send d) else none
  | .xcvrRecv arg m => if arg = 0x00 then some (.recv m) else none
  | .cfgWrite arg d =>
    if d.length ≠ 4 then none
    else if arg = 0x00 then some (.cfgw .ctrl (wordOperand d))
    else if arg = 0x01 ∧ wordOperand d ≠ 0 then some (.cfgw .baud (wordOperand d))
    else if arg = 0x02 then some (.cfgw .settleUs (wordOperand d))
    else none
  | .nop _ _ | .crcClear _ _ | .crcFeed _ _ | .crcRead _ _ | .frameEncode _ _ | .frameDecode _ _ => none
  | .parserPush _ _ | .parserReset _ _ | .parserLevel _ _ | .envEncode _ _ | .envDecode _ _ => none
  | .cfgRead _ _ | .reserved _ _ _ => none

/-- `CMD[p]` and `PEND[p]` agree (R36, R202): a port with no command has no request and owns no send; a port whose command
is outstanding has made that command's line request, and either it waits for its grant, or it is the send in progress. -/
def PortOk (s : State) (p : Nat) (q : Port) : Prop :=
  match q.cmd with
  | none => q.pend = none ∧ s.owner ≠ some p
  | some i =>
    (∃ r, requestOf i = some r ∧ q.pend = some r ∧ s.owner ≠ some p) ∨
    (∃ d, i = .xcvrSend 0x00 d ∧ q.pend = none ∧ s.owner = some p ∧ (s.txq = d ∨ s.phase = .rxSettle))

/-- The number of ports is N_PORTS, each is in order, and the owner is one of them. -/
def PortsOk (P : Config.Params) (s : State) : Prop :=
  s.ports.length = P.nPorts ∧ (∀ p q, s.ports[p]? = some q → PortOk s p q) ∧
  ∀ p, s.owner = some p → p < P.nPorts

/-- Registers, arbiter and ports together: none is kept by the steps without the others. -/
def LineOk (P : Config.Params) (s : State) : Prop := RegistersOk s ∧ ArbiterOk s ∧ PortsOk P s

/-! ## The record of the wire -/

/-- Until when the wire is spoken for: the end of the data phase, or now. -/
def State.wireUntil (s : State) : Rat := if s.phase = .txData ∧ s.rst = false then s.deadline else s.now

/-- The bytes on the wire follow one another without overlap (R208, R209), and none lies after `wireUntil`. -/
def WireOk (s : State) : Prop :=
  s.wire.Pairwise (fun a b => a.stop ≤ b.start) ∧
  ∀ b ∈ s.wire, b.start ≤ b.stop ∧ b.stop ≤ s.wireUntil

/-- The levels of RXE and TXE after the edges of `es`, from the receive levels of a reset block (R34). -/
def levelsAfter (es : List PinEdge) : Bool × Bool :=
  es.foldl
    (fun l e =>
      match e.pin with
      | .rxe => (e.level, l.2)
      | .txe => (l.1, e.level))
    (true, false)

/-- Break before make (R224): at no time between two edges are RXE and TXE both 1; the edges end at the levels that the
outputs have, and none lies after `now`. -/
def EdgesOk (s : State) : Prop :=
  (∀ k, levelsAfter (s.edges.take k) ≠ (true, true)) ∧ levelsAfter s.edges = (s.rxe, s.txe) ∧
  s.edges.Pairwise (fun a b => a.time ≤ b.time) ∧ ∀ e ∈ s.edges, e.time ≤ s.now

/-! ## The record of the answers -/

/-- A response that R72 can carry: RLEN counts the result bytes, and an error has AUX 0x00 and none (R271). -/
def ResponseOk (r : Response) : Prop := r.dout.length ≤ Config.lenFieldMax ∧ (r.status ≠ .ok → r.aux = 0x00 ∧ r.dout = [])

/-- Every answer sent so far is one that R72 can carry, was sent on a port of the block and not after `now`. -/
def AnswersOk (P : Config.Params) (s : State) : Prop :=
  s.ports.length = P.nPorts ∧ (∀ p, s.owner = some p → p < P.nPorts) ∧
  ∀ a ∈ s.answers, a.port < P.nPorts ∧ a.time ≤ s.now ∧ ResponseOk a.resp

/-! ## Reset and stop -/

/-- The machine is quiet (R317): PHASE = IDLE and no port has a command outstanding. A host may assert RST here. -/
def Quiet (s : State) : Prop := s.phase = .idle ∧ ∀ q ∈ s.ports, q.cmd = none

/-! ## What an operation leaves alone -/

/-- The state tuple of R20 as far as it is shared by all ports (spec/60_exceptions.md R283): the registers, the parsers,
the FIFO and the arbiter. -/
def SameShared (s t : State) : Prop :=
  t.ctrl = s.ctrl ∧ t.baud = s.baud ∧ t.settleUs = s.settleUs ∧ t.rxOvf = s.rxOvf ∧ t.pbuf0 = s.pbuf0 ∧
  t.pbuf1 = s.pbuf1 ∧ t.rxfifo = s.rxfifo ∧ t.phase = s.phase ∧ t.deadline = s.deadline ∧ t.owner = s.owner ∧
  t.txq = s.txq ∧ t.txmask = s.txmask

/-- The model's own fields but for the answers: time, RST, the port served, the line's byte, the steps to come, the wire
and the edges. -/
def SameOutside (s t : State) : Prop :=
  t.now = s.now ∧ t.rst = s.rst ∧ t.cur = s.cur ∧ t.lineByte = s.lineByte ∧ t.sched = s.sched ∧ t.wire = s.wire ∧
  t.edges = s.edges

/-- `s` after port `cur`'s record became `q` and the answer `r` was sent on it: nothing else differs. -/
def State.ended (s : State) (q : Port) (r : Response) : State :=
  { s with ports := s.ports.set s.cur q, answers := s.answers ++ [⟨s.cur, s.now, r⟩] }

/-- The state after a command of port `cur`, whose record is `q`, that completes at once: `Respond(OK, aux, dout)`, and no
state but `CMD[cur]` changes. -/
def State.okWith (s : State) (q : Port) (aux : Byte) (dout : Bytes) : State :=
  s.ended { q with cmd := none } ⟨.ok, aux, dout⟩

/-- The state after a command of port `cur`, whose record is `q`, that is answered with the error `e` (R271). -/
def State.errWith (s : State) (q : Port) (e : Status) : State := s.ended { q with cmd := none } (Response.error e)

/-- The state after a command of port `cur`, whose record is `q`, that makes the line request `r` and holds (R202). -/
def State.pendWith (s : State) (q : Port) (r : Request) : State :=
  { s with ports := s.ports.set s.cur { q with pend := some r } }

end Sys2Proof.Machine
end

