-- ==== Sys2Proof/Certificates/Slice0/Obligations.lean ====
section
/-! DEFINITION. The statements for the provers. `s.okWith`, `s.errWith` and `s.pendWith` (Safety.lean) give the WHOLE next
state, so a statement whose conclusion is an equation with one of them is also its instruction's frame. Which agent moves
next is read from the model's own field `sched`, which nothing constrains (assumption log 2). -/

open Sys2Proof Sys2Proof.Machine

/-! ## Encoding -/

/-- Every command a header can announce is decoded back from its encoding, whatever bytes follow it (R71, R73 to R75,
R77, R78). -/
def Obligations.DecodeOfEncode : Prop :=
  ∀ (i : Instr) (rest : Bytes), i.wf = true → decode (encode i ++ rest) = .ok (i, rest)

/-- Decoding is exact. What is decoded is a command a header can announce, and the bytes taken are its encoding: no byte is
ignored (R74, R76). A port has a whole command exactly when the header and the DINLEN bytes it announces are there: LEN
of them, and none for OPC 0x51 (R74). -/
def Obligations.DecodeIsExact : Prop :=
  (∀ (bs : Bytes) (i : Instr) (rest : Bytes), decode bs = .ok (i, rest) → i.wf = true ∧ bs = encode i ++ rest) ∧
  (∀ bs : Bytes, bs.length < 4 → decode bs = .error (.headerIncomplete bs.length)) ∧
  ∀ (opc arg l1 l0 : Byte) (rest : Bytes),
    (∃ r, decode (opc :: arg :: l1 :: l0 :: rest) = .ok r) ↔
      (opc = 0x51 ∨ l1.toNat * 256 + l0.toNat ≤ rest.length)

/-- A few command strings of the spec's own vectors (T-CRCC-01, T-PCMD-02, T-RX-01, T-CFG-05, T-OPC-01) decode to what
they stand for. -/
def Obligations.DecodeKnownCommands : Prop :=
  decode [0x11, 0x00, 0x00, 0x03, 0x31, 0x32, 0x33] = .ok (.crcFeed 0x00 [0x31, 0x32, 0x33], []) ∧
  decode [0x31, 0x01, 0x00, 0x00] = .ok (.parserReset 0x01 [], []) ∧
  decode [0x51, 0x00, 0x00, 0x02, 0x00] = .ok (.xcvrRecv 0x00 2, [0x00]) ∧
  decode [0x61, 0x01, 0x00, 0x04, 0x00, 0x06, 0x68, 0xA0] = .ok (.cfgWrite 0x01 [0x00, 0x06, 0x68, 0xA0], []) ∧
  decode [0x13, 0x00, 0x00, 0x02, 0xAA, 0xBB, 0x00, 0x00, 0x00, 0x00] =
    .ok (.reserved 0x13 0x00 [0xAA, 0xBB], [0x00, 0x00, 0x00, 0x00])

/-- A response leaves the port as STATUS, AUX, a big-endian RLEN and RLEN result bytes (R51, R72), and STATUS is the number
that the table of R270 gives each code: no other number is ever returned. -/
def Obligations.ResponseBytesLayout : Prop :=
  (∀ r : Response, r.dout.length ≤ 65535 →
    ∃ hi lo : Byte, r.bytes = r.status.code :: r.aux :: hi :: lo :: r.dout ∧
      hi.toNat * 256 + lo.toNat = r.dout.length) ∧
  (Status.ok.code = 0x00 ∧ Status.eOpcode.code = 0x01 ∧ Status.eArg.code = 0x02 ∧ Status.eShort.code = 0x10 ∧
    Status.eLenMismatch.code = 0x11 ∧ Status.eSync.code = 0x12 ∧ Status.eLenRange.code = 0x13 ∧
    Status.eExtShort.code = 0x14 ∧ Status.eCrc.code = 0x15 ∧ Status.eTooLong.code = 0x16 ∧
    Status.ePtype.code = 0x17) ∧
  ∀ st : Status, st.code.toNat ≤ 0x02 ∨ (0x10 ≤ st.code.toNat ∧ st.code.toNat ≤ 0x17)

/-! ## Steps and runs -/

/-- When port `p` moves, is free and holds a whole command `i`, the step is `exec i` in the state in which the command's
bytes are consumed and it is `CMD[p]`. -/
def Obligations.StepRunsDecodedCommand : Prop :=
  ∀ (s : State) (p : Nat) (q : Port) (i : Instr) (rest : Bytes) (es : List Event),
    s.sched = .port p :: es → s.rst = false → s.ports[p]? = some q → q.cmd = none →
    decode q.inbuf = .ok (i, rest) →
    step s = exec i { s with sched := es, cur := p, ports := s.ports.set p { q with inbuf := rest, cmd := some i } }

/-- Outside reset the bytes a host supplies reach its port, in order and nothing else of the block changes (R76, CMD[p] of
R36); under RST they are discarded (R300, R301). And a port that has not all the bytes of its command, or whose command is
outstanding, holds: its step changes nothing (R36, R76, R202). That bytes supplied while a command is outstanding wait
behind it is the model's choice, for a host that breaks R36 (assumption log 11). -/
def Obligations.PortHolds : Prop :=
  (∀ (P : Config.Params) (s : State) (p : Nat) (bs : Bytes),
    (s.rst = false → ∀ q : Port, s.ports[p]? = some q →
      agentStep P (.host p bs) s = .next { s with ports := s.ports.set p { q with inbuf := q.inbuf ++ bs } }) ∧
    (s.rst = true → agentStep P (.host p bs) s = .next s)) ∧
  ∀ (s : State) (p : Nat) (q : Port) (es : List Event),
    s.sched = .port p :: es → s.ports[p]? = some q →
    (q.cmd.isSome = true ∨ ∃ e, decode q.inbuf = .error e) →
    step s = .next { s with sched := es }

/-- Running the host's machine for as many steps as are scheduled is running those steps one after the other: no step
reads or changes what is still scheduled. The schedule is the model's own (assumption log 2). -/
def Obligations.RunIsItsScheduledSteps : Prop :=
  ∀ (s : State) (es : List Event), s.sched = es →
    Host.Core.run Sys2Proof.core es.length s = runEvents Config.params es { s with sched := [] }

/-- Every command either ends with exactly one answer on its own port, or makes exactly the line request the spec gives
it and holds with no answer; no other command makes one (R72, R202, R203). -/
def Obligations.OneAnswerOrOneRequest : Prop :=
  ∀ (i : Instr) (s : State) (q : Port), s.ports[s.cur]? = some q →
    (∀ r, requestOf i = some r → exec i s = .next (s.pendWith q r)) ∧
    (requestOf i = none → ∃ (t : State) (resp : Response) (q' : Port), exec i s = .next t ∧
      t.answers = s.answers ++ [⟨s.cur, s.now, resp⟩] ∧ t.ports = s.ports.set s.cur q' ∧
      q'.cmd = none ∧ q'.pend = q.pend ∧ q'.inbuf = q.inbuf)

/-- An error response is the whole effect of the command that raised it (R271): whatever the command, if its answer is not
OK, then the answer has AUX 0x00 and no bytes, and nothing but `CMD[p]` has changed. -/
def Obligations.ErrorChangesNothing : Prop :=
  ∀ (i : Instr) (s t : State) (q : Port) (resp : Response), s.ports[s.cur]? = some q →
    exec i s = .next t → t.answers = s.answers ++ [⟨s.cur, s.now, resp⟩] → resp.status ≠ .ok →
    exec i s = .next (s.errWith q resp.status)

/-- A command touches no other port's `CRC`, `CMD` or `PEND`, and none of what the arbiter, the line and the clock own:
for every instruction. Only `CFG_WRITE` to STATUS may change RX_OVF (R200, R203, R283). -/
def Obligations.CommandFrame : Prop :=
  ∀ (i : Instr) (s t : State), exec i s = .next t →
    (∀ p, p ≠ s.cur → t.ports[p]? = s.ports[p]?) ∧ t.ports.length = s.ports.length ∧ SameOutside s t ∧
    t.ctrl = s.ctrl ∧ t.baud = s.baud ∧ t.settleUs = s.settleUs ∧ t.rxfifo = s.rxfifo ∧ t.phase = s.phase ∧
    t.deadline = s.deadline ∧ t.owner = s.owner ∧ t.txq = s.txq ∧ t.txmask = s.txmask ∧
    (t.rxOvf = s.rxOvf ∨ ∃ din, i = .cfgWrite 0x03 din)

/-- The codecs, NOP and the reading commands change no state of the block but `CMD[p]` (R56): in particular the frame
codec never touches `CRC[p]` (R23). -/
def Obligations.ReadsAndCodecsArePure : Prop :=
  ∀ (arg : Byte) (din : Bytes) (s t : State) (q : Port), s.ports[s.cur]? = some q →
    (exec (.nop arg din) s = .next t ∨ exec (.crcRead arg din) s = .next t ∨
      exec (.frameEncode arg din) s = .next t ∨ exec (.frameDecode arg din) s = .next t ∨
      exec (.parserLevel arg din) s = .next t ∨ exec (.envEncode arg din) s = .next t ∨
      exec (.envDecode arg din) s = .next t ∨ exec (.cfgRead arg din) s = .next t) →
    ∃ resp, t = s.ended { q with cmd := none } resp

/-! ## NOP and reserved opcodes -/

/-- `NOP` (R250), every form: OK with ARG and LEN 0, E_ARG otherwise; and a reserved opcode (R78): E_OPCODE, whatever its
ARG and operand bytes, with no state written. -/
def Obligations.NopAndReservedAnswer : Prop :=
  ∀ (s : State) (q : Port) (opc arg : Byte) (din : Bytes), s.ports[s.cur]? = some q →
    exec (.nop 0x00 []) s = .next (s.okWith q 0x00 []) ∧
    (arg ≠ 0x00 ∨ din ≠ [] → exec (.nop arg din) s = .next (s.errWith q .eArg)) ∧
    exec (.reserved opc arg din) s = .next (s.errWith q .eOpcode)

/-! ## The CRC unit -/

/-- `CRC_CLEAR`, `CRC_FEED` and `CRC_READ` (R105 to R107), every form: the accumulator is cleared; folds the operand bytes
in and is returned in AUX; is returned in AUX. And `CRC_OF`, a clear and then a feed (R89), answers the CRC of its bytes
whatever the accumulator held. -/
def Obligations.CrcCommandsAnswer : Prop :=
  ∀ (s : State) (q : Port) (arg : Byte) (din : Bytes), s.ports[s.cur]? = some q →
    exec (.crcClear 0x00 []) s = .next (s.okWith { q with crc := 0x00 } 0x00 []) ∧
    exec (.crcFeed 0x00 din) s = .next (s.okWith { q with crc := crc8From q.crc din } (crc8From q.crc din) []) ∧
    exec (.crcRead 0x00 []) s = .next (s.okWith q q.crc []) ∧
    (arg ≠ 0x00 → exec (.crcFeed arg din) s = .next (s.errWith q .eArg)) ∧
    (arg ≠ 0x00 ∨ din ≠ [] →
      exec (.crcClear arg din) s = .next (s.errWith q .eArg) ∧ exec (.crcRead arg din) s = .next (s.errWith q .eArg)) ∧
    ∃ t q', pseudoCrcOf din = [.crcClear 0x00 [], .crcFeed 0x00 din] ∧
      exec (.crcClear 0x00 []) s = .next t ∧ t.ports[t.cur]? = some q' ∧
      exec (.crcFeed 0x00 din) t = .next (t.okWith { q' with crc := crc8 din } (crc8 din) [])

/-- The CRC of a byte string is the left fold of the step, from 0x00 when no start value is named, and folding is
associative over concatenation (R101). -/
def Obligations.CrcIsALeftFold : Prop :=
  (∀ c : Byte, crc8From c [] = c) ∧
  (∀ (c b : Byte) (s : Bytes), crc8From c (b :: s) = crc8From (crc8Step c b) s) ∧
  (∀ s : Bytes, crc8 s = crc8From 0x00 s) ∧
  ∀ (c : Byte) (s t : Bytes), crc8From c (s ++ t) = crc8From (crc8From c s) t

/-- The residue of R103; and so a check byte is right exactly when the CRC over it too is zero. -/
def Obligations.CrcResidueIsZero : Prop :=
  (∀ s : Bytes, crc8 (s ++ [crc8 s]) = 0x00) ∧
  ∀ (s : Bytes) (c : Byte), crc8 (s ++ [c]) = 0x00 ↔ crc8 s = c

/-- crc8 is linear over GF(2) for strings of equal length, and flipping any one bit of a string changes its CRC (R104). -/
def Obligations.CrcDetectsEveryBitFlip : Prop :=
  (∀ s e : Bytes, s.length = e.length → crc8 (List.zipWith (· ^^^ ·) s e) = crc8 s ^^^ crc8 e) ∧
  ∀ (pre post : Bytes) (b : Byte) (k : Nat), k < 8 →
    crc8 (pre ++ (b ^^^ (1#8 <<< k)) :: post) ≠ crc8 (pre ++ b :: post)

/-- One shift of R100 is multiplication by x modulo x^8+x^7+x^6+x^4+x^2+1, the polynomial 0x1D5 of R8, and a step is eight
of them on `c XOR b`. -/
def Obligations.CrcStepIsPolynomialReduction : Prop :=
  (∀ c : Byte, (crc8Shift c).toNat = if 128 ≤ c.toNat then (2 * c.toNat) ^^^ 0x1D5 else 2 * c.toNat) ∧
  ∀ c b : Byte, crc8Step c b = Nat.repeat crc8Shift 8 (c ^^^ b)

/-! ## The frame codec -/

/-- `FRAME_ENCODE` (R122, R125), every form and every check in order, with the wire frame of R80 and R81. -/
def Obligations.FrameEncodeAnswers : Prop :=
  ∀ (s : State) (q : Port) (arg : Byte) (din : Bytes), s.ports[s.cur]? = some q →
    (arg ≠ 0x00 → exec (.frameEncode arg din) s = .next (s.errWith q .eArg)) ∧
    (din.length < 2 → exec (.frameEncode 0x00 din) s = .next (s.errWith q .eShort)) ∧
    ∀ (sync type : Byte) (rest : Bytes), din = sync :: type :: rest →
      (sync ∉ Config.syncSet → exec (.frameEncode 0x00 din) s = .next (s.errWith q .eSync)) ∧
      (sync ∈ Config.syncSet → 0x28 ≤ type.toNat ∧ din.length < 4 →
        exec (.frameEncode 0x00 din) s = .next (s.errWith q .eExtShort)) ∧
      (sync ∈ Config.syncSet → type.toNat < 0x28 ∨ 4 ≤ din.length → 62 < din.length →
        exec (.frameEncode 0x00 din) s = .next (s.errWith q .eTooLong)) ∧
      (sync ∈ Config.syncSet → type.toNat < 0x28 ∨ 4 ≤ din.length → din.length ≤ 62 →
        exec (.frameEncode 0x00 din) s =
          .next (s.okWith q 0x00 ([sync, BitVec.ofNat 8 din.length, type] ++ rest ++ [crc8 (type :: rest)])))

/-- `FRAME_DECODE` (R124, R128), every form and every check in order. A frame of four bytes or more is sync, length, the
checked bytes (type first) and the crc byte. -/
def Obligations.FrameDecodeAnswers : Prop :=
  ∀ (s : State) (q : Port) (arg : Byte) (din : Bytes), s.ports[s.cur]? = some q →
    (arg ≠ 0x00 → exec (.frameDecode arg din) s = .next (s.errWith q .eArg)) ∧
    (din.length < 4 → exec (.frameDecode 0x00 din) s = .next (s.errWith q .eShort)) ∧
    ∀ (sync len type : Byte) (more : Bytes) (crc : Byte), din = [sync, len, type] ++ more ++ [crc] →
      (len.toNat + 2 ≠ din.length → exec (.frameDecode 0x00 din) s = .next (s.errWith q .eLenMismatch)) ∧
      (len.toNat + 2 = din.length →
        (sync ∉ Config.syncSet → exec (.frameDecode 0x00 din) s = .next (s.errWith q .eSync)) ∧
        (sync ∈ Config.syncSet → 62 < len.toNat → exec (.frameDecode 0x00 din) s = .next (s.errWith q .eLenRange)) ∧
        (sync ∈ Config.syncSet → len.toNat ≤ 62 →
          (0x28 ≤ type.toNat ∧ len.toNat < 4 → exec (.frameDecode 0x00 din) s = .next (s.errWith q .eExtShort)) ∧
          (type.toNat < 0x28 ∨ 4 ≤ len.toNat →
            (crc ≠ crc8 (type :: more) → exec (.frameDecode 0x00 din) s = .next (s.errWith q .eCrc)) ∧
            (crc = crc8 (type :: more) → exec (.frameDecode 0x00 din) s =
              .next (s.okWith q (if 0x28 ≤ type.toNat then 0x01 else 0x00) (sync :: type :: more))))))

/-- Decoding an encoded field string gives it back, with the extended flag of its type (R129), and encoding a decoded frame
gives it back byte for byte (R130). -/
def Obligations.FrameRoundTrip : Prop :=
  (∀ d f : Bytes, frameEncode d = .ok f → frameDecode f = .ok (d, decide (0x28 ≤ (d.getD 1 0).toNat))) ∧
  ∀ (f d : Bytes) (ext : Bool), frameDecode f = .ok (d, ext) → frameEncode d = .ok f

/-- No frame with one bit flipped in its type, its addresses, its payload or its crc byte is valid (R104, R121). -/
def Obligations.FrameBitFlipRejected : Prop :=
  ∀ (pre post : Bytes) (b : Byte) (k : Nat), k < 8 → 2 ≤ pre.length →
    frameValid (pre ++ b :: post) = true → frameValid (pre ++ (b ^^^ (1#8 <<< k)) :: post) = false

/-! ## The stream parser -/

/-- `PARSER_PUSH` (R157), every form: only the addressed buffer changes, and the answer holds the frames and AUX. -/
def Obligations.ParserPushAnswers : Prop :=
  ∀ (s : State) (q : Port) (arg : Byte) (din : Bytes), s.ports[s.cur]? = some q →
    (2 ≤ arg.toNat ∨ 65472 < din.length → exec (.parserPush arg din) s = .next (s.errWith q .eArg)) ∧
    (din.length ≤ 65472 →
      (let r := parserPush s.pbuf0 din
       exec (.parserPush 0x00 din) s =
        .next ({ s with pbuf0 := r.buf }.okWith q (pushAux s.pbuf0 din r.out r.buf r.nf) r.out)) ∧
      (let r := parserPush s.pbuf1 din
       exec (.parserPush 0x01 din) s =
        .next ({ s with pbuf1 := r.buf }.okWith q (pushAux s.pbuf1 din r.out r.buf r.nf) r.out)))

/-- `PARSER_RESET` and `PARSER_LEVEL` (R160, R161), every form. A buffer that meets R153 has a length that AUX can
count. -/
def Obligations.ParserResetAndLevelAnswer : Prop :=
  ∀ (s : State) (q : Port) (arg : Byte) (din : Bytes), s.ports[s.cur]? = some q →
    (2 ≤ arg.toNat ∨ din ≠ [] →
      exec (.parserReset arg din) s = .next (s.errWith q .eArg) ∧ exec (.parserLevel arg din) s = .next (s.errWith q .eArg)) ∧
    exec (.parserReset 0x00 []) s = .next ({ s with pbuf0 := [] }.okWith q 0x00 []) ∧
    exec (.parserReset 0x01 []) s = .next ({ s with pbuf1 := [] }.okWith q 0x00 []) ∧
    (bufferOk s.pbuf0 = true →
      ∃ n : Byte, n.toNat = s.pbuf0.length ∧ exec (.parserLevel 0x00 []) s = .next (s.okWith q n [])) ∧
    (bufferOk s.pbuf1 = true →
      ∃ n : Byte, n.toNat = s.pbuf1.length ∧ exec (.parserLevel 0x01 []) s = .next (s.okWith q n []))

/-- The algorithm of R151, pass by pass, as equations of the scan of a buffer: each branch of the loop. -/
def Obligations.ParserScanFollowsTheLoop : Prop :=
  (∀ b : Bytes, (∀ x ∈ b, x ∉ Config.syncSet) → parserScan b = ⟨[], [], 0⟩) ∧
  ∀ (noise : Bytes) (sync : Byte), (∀ x ∈ noise, x ∉ Config.syncSet) → sync ∈ Config.syncSet →
    parserScan (noise ++ [sync]) = ⟨[sync], [], 0⟩ ∧
    ∀ (len : Byte) (rest : Bytes),
      (len.toNat < 2 ∨ 62 < len.toNat →
        parserScan (noise ++ sync :: len :: rest) = parserScan (len :: rest)) ∧
      (2 ≤ len.toNat ∧ len.toNat ≤ 62 →
        (rest.length < len.toNat →
          parserScan (noise ++ sync :: len :: rest) = ⟨sync :: len :: rest, [], 0⟩) ∧
        (∀ f more : Bytes, rest = f ++ more → f.length = len.toNat →
          let r := parserScan more
          parserScan (noise ++ sync :: len :: rest) =
            if frameValid (sync :: len :: f) = true then ⟨r.buf, sync :: len :: f ++ r.out, r.nf + 1⟩ else r))

/-- The buffer a push leaves meets R153, so it holds at most 63 bytes. -/
def Obligations.ParserBufferBounded : Prop :=
  ∀ buf chunk : Bytes, bufferOk (parserPush buf chunk).buf = true ∧ (parserPush buf chunk).buf.length ≤ 63

/-- Chunking does not matter (R154). -/
def Obligations.ParserChunkingIrrelevant : Prop :=
  ∀ (buf a c : Bytes), bufferOk buf = true →
    let r1 := parserPush buf a
    let r2 := parserPush r1.buf c
    parserPush buf (a ++ c) = ⟨r2.buf, r1.out ++ r2.out, r1.nf + r2.nf⟩

/-- The byte-at-a-time parser of the hardware gives what one push of the whole chunk gives (R155). -/
def Obligations.ParserStreamingEquivalent : Prop :=
  ∀ buf chunk : Bytes, bufferOk buf = true → parserFeed buf chunk = parserPush buf chunk

/-- What a push gives out is the concatenation of as many valid frames as it counts, and no more bytes than went in
(R121, R157, R158). -/
def Obligations.ParserOutputIsValidFrames : Prop :=
  ∀ buf chunk : Bytes,
    let r := parserPush buf chunk
    (∃ fs : List Bytes, fs.flatten = r.out ∧ fs.length = r.nf ∧ ∀ f ∈ fs, frameValid f = true) ∧
    r.out.length + r.buf.length ≤ buf.length + chunk.length

/-- A slice of the parser can fail to decode only with E_EXT_SHORT or E_CRC, and then all its bytes are dropped (R152). -/
def Obligations.ParserSliceFailures : Prop :=
  ∀ (sync len : Byte) (f : Bytes) (e : Status), sync ∈ Config.syncSet → 2 ≤ len.toNat → len.toNat ≤ 62 →
    f.length = len.toNat → frameDecode (sync :: len :: f) = .error e →
    (e = .eExtShort ∨ e = .eCrc) ∧ ∀ more : Bytes, parserScan (sync :: len :: (f ++ more)) = parserScan more

/-- A valid frame pushed in any chunks into an empty buffer is returned once, by the push that brings its last byte: a
push that stays inside the frame keeps all its bytes and returns nothing (R162). -/
def Obligations.ParserPartialDelivery : Prop :=
  ∀ a b c : Bytes, frameValid (a ++ b ++ c) = true → c ≠ [] →
    parserPush a b = ⟨a ++ b, [], 0⟩ ∧ parserPush (a ++ b) c = ⟨[], a ++ b ++ c, 1⟩

/-- Noise that holds no sync byte, and then a valid frame, yields exactly that frame (R163). -/
def Obligations.ParserResynchronizes : Prop :=
  ∀ noise f : Bytes, (∀ x ∈ noise, x ∉ Config.syncSet) → frameValid f = true →
    parserPush [] (noise ++ f) = ⟨[], f, 1⟩

/-- The AUX byte of a push (R156), a function of the buffer and the chunk: NOSYNC, DROPPED and the saturating count are
its bits 7, 6 and 5 to 0. -/
def Obligations.PushAuxFields : Prop :=
  ∀ buf chunk : Bytes,
    let r := parserPush buf chunk
    let aux := pushAux buf chunk r.out r.buf r.nf
    (aux.getLsbD 7 = true ↔ buf ++ chunk ≠ [] ∧ ∀ x ∈ buf ++ chunk, x ∉ Config.syncSet) ∧
    (aux.getLsbD 6 = true ↔ r.out.length + r.buf.length < buf.length + chunk.length) ∧
    aux.toNat % 64 = min r.nf 63

/-- A command on one parser instance reads and writes no other (R150): pushes on the two instances commute in what they
answer and what they leave in the buffers. -/
def Obligations.ParserInstancesCommute : Prop :=
  ∀ (c0 c1 : Bytes) (s : State) (q : Port), s.ports[s.cur]? = some q → c0.length ≤ 65472 → c1.length ≤ 65472 →
    ∃ (t u v w : State) (a0 a1 : Answer),
      exec (.parserPush 0x00 c0) s = .next t ∧ exec (.parserPush 0x01 c1) t = .next u ∧
      exec (.parserPush 0x01 c1) s = .next v ∧ exec (.parserPush 0x00 c0) v = .next w ∧
      u.answers = s.answers ++ [a0, a1] ∧ w.answers = s.answers ++ [a1, a0] ∧ SameShared u w ∧ u.ports = w.ports

/-! ## The envelope codec -/

/-- `ENV_ENCODE` (R180, R181), every form and every check in order, with the layout of R86. -/
def Obligations.EnvEncodeAnswers : Prop :=
  ∀ (s : State) (q : Port) (arg : Byte) (din : Bytes), s.ports[s.cur]? = some q →
    (arg ∉ Config.ptypes → exec (.envEncode arg din) s = .next (s.errWith q .ePtype)) ∧
    (arg ∈ Config.ptypes →
      (din.length < 8 → exec (.envEncode arg din) s = .next (s.errWith q .eShort)) ∧
      ∀ ts payload : Bytes, din = ts ++ payload → ts.length = 8 →
        (65523 < payload.length → exec (.envEncode arg din) s = .next (s.errWith q .eTooLong)) ∧
        (payload.length ≤ 65523 → ∃ hi lo : Byte, hi.toNat * 256 + lo.toNat = payload.length ∧
          exec (.envEncode arg din) s = .next (s.okWith q 0x00 ([arg] ++ ts ++ [hi, lo] ++ payload))))

/-- `ENV_DECODE` (R182, R183), every form and every check in order. -/
def Obligations.EnvDecodeAnswers : Prop :=
  ∀ (s : State) (q : Port) (arg : Byte) (din : Bytes), s.ports[s.cur]? = some q →
    (arg ≠ 0x00 → exec (.envDecode arg din) s = .next (s.errWith q .eArg)) ∧
    (din.length < 11 → exec (.envDecode 0x00 din) s = .next (s.errWith q .eShort)) ∧
    ∀ (t hi lo : Byte) (ts payload : Bytes), din = [t] ++ ts ++ [hi, lo] ++ payload → ts.length = 8 →
      (hi.toNat * 256 + lo.toNat ≠ payload.length → exec (.envDecode 0x00 din) s = .next (s.errWith q .eLenMismatch)) ∧
      (hi.toNat * 256 + lo.toNat = payload.length →
        (t ∉ Config.ptypes → exec (.envDecode 0x00 din) s = .next (s.errWith q .ePtype)) ∧
        (t ∈ Config.ptypes → 65523 < payload.length → exec (.envDecode 0x00 din) s = .next (s.errWith q .eTooLong)) ∧
        (t ∈ Config.ptypes → payload.length ≤ 65523 →
          exec (.envDecode 0x00 din) s = .next (s.okWith q t (ts ++ payload))))

/-- Decoding an encoded envelope gives its parts back, and encoding the parts of a decoded one gives it back (R187). -/
def Obligations.EnvelopeRoundTrip : Prop :=
  (∀ (t : Byte) (ts payload : Bytes), t ∈ Config.ptypes → ts.length = 8 → payload.length ≤ 65523 →
    ∃ e, envEncode t ts payload = .ok e ∧ envDecode e = .ok ⟨t, ts, payload⟩) ∧
  ∀ (e : Bytes) (v : Envelope), envDecode e = .ok v → envEncode v.ptype v.ts v.payload = .ok e

/-! ## The transceiver -/

/-- `XCVR_SEND` (R206 to R215), every form. It is refused before any request with E_ARG; else it makes its request; and
from an idle line, granted, with the settle time, the time of its bytes on the wire and the settle time again gone by,
it is answered OK, the bytes are on the wire in order from the end of the first settle, the four edges are made, and
everything else is as before. -/
def Obligations.XcvrSendRunsToItsAnswer : Prop :=
  ∀ (P : Config.Params) (s : State) (q : Port) (arg : Byte) (d : Bytes), s.ports[s.cur]? = some q →
    (arg ≠ 0x00 → exec (.xcvrSend arg d) s = .next (s.errWith q .eArg)) ∧
    exec (.xcvrSend 0x00 d) s = .next (s.pendWith q (.send d)) ∧
    ∀ a b c : Rat, s.rst = false → s.phase = .idle → (s.settle.toNat : Rat) ≤ a →
      tWire P s.baud d.length ≤ b → (s.settle.toNat : Rat) ≤ c →
      runEvents P [.grant s.cur, .clock a, .phaseEnd, .clock b, .phaseEnd, .clock c, .phaseEnd]
          (s.pendWith q (.send d)) =
        .next { s with
          ports := s.ports.set s.cur { q with cmd := none, pend := none }
          owner := none
          txq := []
          txmask := s.invertMask
          deadline := s.now + a + b + (s.settle.toNat : Rat)
          now := s.now + a + b + c
          lineByte := s.lineByte.map RxWatch.onRxeFall
          answers := s.answers ++ [⟨s.cur, s.now + a + b + c, ⟨.ok, 0x00, []⟩⟩]
          wire := s.wire ++ emission s.invertMask (tByte P s.baud) (s.now + a) d
          edges := s.edges ++ edgesToTransmit s.now ++ edgesToReceive (s.now + a + b) }

/-- Byte `j` of a send occupies the wire from `t0 + j × T_BYTE` to `t0 + (j+1) × T_BYTE` with the value `d[j] XOR TXMASK`,
and there are as many as were sent (R208, R210). -/
def Obligations.EmissionTimesAndValues : Prop :=
  ∀ (mask : Byte) (tb t0 : Rat) (d : Bytes), (emission mask tb t0 d).length = d.length ∧
    ∀ (j : Nat) (b : Byte), d[j]? = some b →
      (emission mask tb t0 d)[j]? = some ⟨b ^^^ mask, t0 + j * tb, t0 + (j + 1) * tb, false⟩

/-- `XCVR_RECV` (R220, R221), every form: its request, and its grant on an idle line, which removes the bytes it returns
and complements them when CTRL.INVERT is 1. -/
def Obligations.XcvrRecvAnswers : Prop :=
  ∀ (s : State) (q : Port) (arg : Byte) (m : Half), s.ports[s.cur]? = some q →
    (arg ≠ 0x00 → exec (.xcvrRecv arg m) s = .next (s.errWith q .eArg)) ∧
    exec (.xcvrRecv 0x00 m) s = .next (s.pendWith q (.recv m)) ∧
    (s.rst = false → s.phase = .idle →
      ∃ out rest : Bytes, s.rxfifo = out ++ rest ∧ out.length = min m.toNat s.rxfifo.length ∧
        (s.pendWith q (.recv m)).grant s.cur =
          { s with rxfifo := rest }.okWith { q with pend := none } 0x00
            (if s.ctrl.getLsbD 0 = true then out.map (fun b => ~~~b) else out))

/-- A send holds the line for at least `2 × SETTLE + T_WIRE(n)` µs from its grant (R217, R227): in every run without a
reset, when PHASE is IDLE again at least that much time has passed. -/
def Obligations.SendHoldsTheLine : Prop :=
  ∀ (P : Config.Params) (ev : Nat → Event) (s : State) (p : Nat) (d : Bytes) (n : Nat),
    s.rst = false → s.phase = .idle → s.pend p = some (.send d) → ev 0 = .grant p →
    (∀ k, k < n → ev k ≠ .rstAssert) → 1 ≤ n → (follow P ev s n).phase = .idle →
    s.now + 2 * (s.settle.toNat : Rat) + tWire P s.baud d.length ≤ (follow P ev s n).now

/-- Under the fairness of R226, every pending line request is answered OK. -/
def Obligations.EveryLineRequestIsAnswered : Prop :=
  ∀ (P : Config.Params) (ev : Nat → Event) (s : State) (p : Nat),
    LineOk P s → s.rst = false → Fair P ev s → (s.pend p).isSome = true →
    ∃ (n : Nat) (a : Answer),
      a ∈ (follow P ev s n).answers.drop s.answers.length ∧ a.port = p ∧ a.resp.status = .ok

/-- While PHASE is not IDLE nothing is granted (R204), and CTRL, BAUD and SETTLE_US do not change, whatever agent moves,
reset apart (R216, R258); nor is anything granted to a port with no request. -/
def Obligations.NothingGrantedWhileBusy : Prop :=
  (∀ (P : Config.Params) (s : State) (p : Nat), s.phase ≠ .idle ∨ s.pend p = none →
    agentStep P (.grant p) s = .next s) ∧
  ∀ (P : Config.Params) (e : Event) (s t : State), agentStep P e s = .next t → s.phase ≠ .idle → e ≠ .rstRelease →
    t.ctrl = s.ctrl ∧ t.baud = s.baud ∧ t.settleUs = s.settleUs

/-- The direction outputs, DIR and the pins as functions of PHASE (R34, R35): outside reset exactly one direction is
active, and one pin carries TXE alone. -/
def Obligations.OutputsFollowPhase : Prop :=
  ∀ (P : Config.Params) (s : State), s.rst = false →
    (s.rxe = true ↔ s.phase = .idle ∨ s.phase = .rxSettle) ∧
    (s.txe = true ↔ s.phase = .txSettle ∨ s.phase = .txData) ∧
    (s.dir = .transmit ↔ s.txe = true) ∧ (s.dir = .receive ↔ s.rxe = true) ∧
    (P.dirPins = .two → s.pins P = [s.rxe, s.txe]) ∧ (P.dirPins = .one → s.pins P = [s.txe])

/-- Only the arbiter's own steps change PHASE, OWNER, TXQ, TXMASK, DEADLINE, the outputs, or the wire; reset apart (R35,
R200). -/
def Obligations.OnlyArbiterMovesTheLine : Prop :=
  ∀ (P : Config.Params) (e : Event) (s t : State), agentStep P e s = .next t →
    (∀ p, e ≠ .grant p) → e ≠ .phaseEnd → e ≠ .rstAssert → e ≠ .rstRelease →
    t.phase = s.phase ∧ t.owner = s.owner ∧ t.txq = s.txq ∧ t.txmask = s.txmask ∧ t.deadline = s.deadline ∧
    t.rxe = s.rxe ∧ t.txe = s.txe ∧ t.dir = s.dir ∧ t.edges = s.edges ∧ t.wire = s.wire

/-- How the block receives a byte of the peer (R218, R219). The receiver sees a start bit with RXE as it is then, and the
grant of a send breaks a byte that was being received whole. When the stop bit completes: with RXE = 0, nothing; received
whole, appended, or dropped with RX_OVF set when the FIFO is full; started with RXE = 0, or with a bad stop bit, as drawn.
Three clauses are the model's choice: a byte during which RXE fell and rose again is not received, read from decision D36
(assumption log 6); nor is it when it has a framing error as well, which R219 could be read to draw (assumption log 18);
and a drawn byte meets a full FIFO as any other does (assumption log 8). -/
def Obligations.ReceptionOfAByte : Prop :=
  ∀ (P : Config.Params) (s : State), s.rst = false →
    (s.lineByte = none →
      (s.phase = .idle ∨ s.phase = .rxSettle →
        agentStep P .lineStart s = .next { s with lineByte := some .whole }) ∧
      (s.phase = .txSettle ∨ s.phase = .txData →
        agentStep P .lineStart s = .next { s with lineByte := some .late })) ∧
    (∀ (p : Nat) (d : Bytes), s.phase = .idle → s.pend p = some (.send d) → s.lineByte = some .whole →
      ∃ t, agentStep P (.grant p) s = .next t ∧ t.phase = .txSettle ∧ t.lineByte = some .broken) ∧
    ∀ (w : RxWatch) (v : Byte) (framing : Bool) (drawn : Option Byte), s.lineByte = some w →
      let t : State := { s with lineByte := none }
      let taken (x : Byte) (u : State) : Prop :=
        (s.rxfifo.length < P.rxFifoDepth → u = { t with rxfifo := s.rxfifo ++ [x] }) ∧
        (P.rxFifoDepth ≤ s.rxfifo.length → u = { t with rxOvf := true })
      ∃ u : State, agentStep P (.lineStop v framing drawn) s = .next u ∧
        (s.phase = .txSettle ∨ s.phase = .txData → u = t) ∧
        (s.phase = .idle ∨ s.phase = .rxSettle →
          (w = .whole → framing = false → taken v u) ∧
          (w = .broken → u = t) ∧
          (w = .late ∨ (w = .whole ∧ framing = true) → (drawn = none → u = t) ∧ ∀ x, drawn = some x → taken x u))

/-- Nothing is taken out of RXFIFO while PHASE is not IDLE, and nothing comes in while the block transmits: no byte of the
block's own is received, and a poll sees bytes only after the send (R222, R223). Reset apart. -/
def Obligations.FifoDuringASend : Prop :=
  ∀ (P : Config.Params) (e : Event) (s t : State), agentStep P e s = .next t → s.phase ≠ .idle → e ≠ .rstRelease →
    s.rxfifo <+: t.rxfifo ∧ (s.phase = .txSettle ∨ s.phase = .txData → s.rst = false → t.rxfifo = s.rxfifo)

/-- RX_OVF is cleared only by a `CFG_WRITE` to STATUS with bit 2 set, and by reset (R32). -/
def Obligations.OverflowClearedOnlyByHost : Prop :=
  ∀ (P : Config.Params) (e : Event) (s t : State), agentStep P e s = .next t → s.rxOvf = true → t.rxOvf = false →
    (∃ (p : Nat) (u : State) (b0 b1 b2 b3 : Byte), e = .port p ∧
      s.fetch p = some (.cfgWrite 0x03 [b0, b1, b2, b3], u) ∧ b3.getLsbD 2 = true) ∨
    e = .rstRelease

/-! ## Configuration -/

/-- `CFG_READ` (R251, R252), every form: each register as four big-endian bytes, reserved bits 0. -/
def Obligations.CfgReadAnswers : Prop :=
  ∀ (s : State) (q : Port) (arg : Byte) (din : Bytes), s.ports[s.cur]? = some q →
    (4 ≤ arg.toNat ∨ din ≠ [] → exec (.cfgRead arg din) s = .next (s.errWith q .eArg)) ∧
    exec (.cfgRead 0x00 []) s = .next (s.okWith q 0x00 [0x00, 0x00, 0x00, if s.ctrl.getLsbD 0 then 0x01 else 0x00]) ∧
    exec (.cfgRead 0x01 []) s = .next (s.okWith q 0x00
      [s.baud.extractLsb' 24 8, s.baud.extractLsb' 16 8, s.baud.extractLsb' 8 8, s.baud.extractLsb' 0 8]) ∧
    exec (.cfgRead 0x02 []) s = .next (s.okWith q 0x00
      [0x00, 0x00, s.settleUs.extractLsb' 8 8, s.settleUs.extractLsb' 0 8]) ∧
    (s.rxfifo.length ≤ 65535 → ∃ hi lo : Byte, hi.toNat * 256 + lo.toNat = s.rxfifo.length ∧
      exec (.cfgRead 0x03 []) s = .next (s.okWith q 0x00 [hi, lo, 0x00,
        (if s.rxOvf = true then 4 else 0) + (if s.phase ≠ .idle then 2 else 0) +
          (if s.phase = .txSettle ∨ s.phase = .txData then 1 else 0)]))

/-- `CFG_WRITE` (R253 to R257), every form: the errors, all before any request; the write of STATUS at once; the requests
of the other three registers; and their grants on an idle line, reserved bits ignored. -/
def Obligations.CfgWriteAnswers : Prop :=
  ∀ (s : State) (q : Port) (arg : Byte) (din : Bytes), s.ports[s.cur]? = some q →
    (4 ≤ arg.toNat ∨ din.length ≠ 4 → exec (.cfgWrite arg din) s = .next (s.errWith q .eArg)) ∧
    ∀ (b0 b1 b2 b3 : Byte) (v : Word), din = [b0, b1, b2, b3] →
      v = ((b0 ++ b1 : BitVec 16) ++ (b2 ++ b3 : BitVec 16) : BitVec 32) →
      exec (.cfgWrite 0x03 din) s = .next ({ s with rxOvf := if v.getLsbD 2 then false else s.rxOvf }.okWith q 0x00 []) ∧
      exec (.cfgWrite 0x00 din) s = .next (s.pendWith q (.cfgw .ctrl v)) ∧
      (v = 0 → exec (.cfgWrite 0x01 din) s = .next (s.errWith q .eArg)) ∧
      (v ≠ 0 → exec (.cfgWrite 0x01 din) s = .next (s.pendWith q (.cfgw .baud v))) ∧
      exec (.cfgWrite 0x02 din) s = .next (s.pendWith q (.cfgw .settleUs v)) ∧
      (s.rst = false → s.phase = .idle →
        (s.pendWith q (.cfgw .ctrl v)).grant s.cur =
          { s with ctrl := if v.getLsbD 0 then 1 else 0 }.okWith { q with pend := none } 0x00 [] ∧
        (s.pendWith q (.cfgw .baud v)).grant s.cur =
          { s with baud := v }.okWith { q with pend := none } 0x00 [] ∧
        (s.pendWith q (.cfgw .settleUs v)).grant s.cur =
          { s with settleUs := (0#16 ++ v.extractLsb' 0 16 : BitVec 32) }.okWith { q with pend := none } 0x00 [])

/-! ## Invariants that every step keeps -/

/-- Every step keeps the parser buffers as R153 says and RXFIFO within its depth (R30, R31). -/
def Obligations.BuffersInvariant : Prop :=
  ∀ s t : State, BuffersOk Config.params s → step s = .next t → BuffersOk Config.params t

/-- Every step keeps the registers legal, the arbiter's data as its phase says, and every port's `CMD` and `PEND` in
agreement with each other and with OWNER (R24 to R26, R33, R36, R202, R205). -/
def Obligations.LineInvariant : Prop :=
  ∀ s t : State, LineOk Config.params s → step s = .next t → LineOk Config.params t

/-- Every step keeps the bytes on the wire apart: one after the other, never interleaved (R208, R209). -/
def Obligations.WireInvariant : Prop := ∀ s t : State, WireOk s → step s = .next t → WireOk t

/-- Every step keeps RXE and TXE from ever being both 1 (R224). -/
def Obligations.BreakBeforeMakeInvariant : Prop := ∀ s t : State, EdgesOk s → step s = .next t → EdgesOk t

/-- Every step keeps every answer one that a response header can carry, on a port of the block (R72, R158, R271). -/
def Obligations.AnswersInvariant : Prop :=
  ∀ s t : State, BuffersOk Config.params s → AnswersOk Config.params s → step s = .next t →
    AnswersOk Config.params t

/-- The state after reset meets all the invariants. -/
def Obligations.ResetMeetsTheInvariants : Prop :=
  BuffersOk Config.params State.reset ∧ LineOk Config.params State.reset ∧ WireOk State.reset ∧
  EdgesOk State.reset ∧ AnswersOk Config.params State.reset

/-- No step stops: from every state a step answers a next state, never a fault or a refusal (R276, R285). -/
def Obligations.NoStepStops : Prop := ∀ s : State, ∃ t, step s = .next t

/-! ## Reset -/

/-- At the release of RST every element of the state has the value of R301. -/
def Obligations.ResetReleaseState : Prop :=
  ∀ (P : Config.Params) (s : State), s.rst = true →
    ∃ t, agentStep P .rstRelease s = .next t ∧ t.rst = false ∧ t.ports.length = P.nPorts ∧
      (∀ q ∈ t.ports, q.crc = 0x00 ∧ q.inbuf = [] ∧ q.cmd = none ∧ q.pend = none) ∧
      t.ctrl = 0 ∧ t.baud = P.baudReset ∧ t.settleUs.toNat = P.settleReset.toNat ∧ t.rxOvf = false ∧
      t.pbuf0 = [] ∧ t.pbuf1 = [] ∧ t.rxfifo = [] ∧ t.phase = .rxSettle ∧
      t.deadline = s.now + (P.settleReset.toNat : Rat) ∧ t.owner = none ∧ t.txq = [] ∧ t.txmask = 0x00 ∧
      t.rxe = true ∧ t.txe = false ∧ t.dir = .receive ∧ t.now = s.now

/-- While RST is asserted no agent of the block takes a step, received bytes are discarded, RXE is 1 and TXE is 0
(R300). -/
def Obligations.ResetHoldsTheBlock : Prop :=
  ∀ (P : Config.Params) (e : Event) (s t : State), s.rst = true → agentStep P e s = .next t → e ≠ .rstRelease →
    SameShared s t ∧ t.ports = s.ports ∧ t.answers = s.answers ∧ t.wire = s.wire ∧ t.edges = s.edges ∧
    t.rst = true ∧ t.rxe = true ∧ t.txe = false

/-- RST asserted takes effect in every phase, and answers nothing (R300, R304, R312). While the block transmits it stops the
send at once: TXE falls and RXE rises then, the byte being sent is cut, and no byte is on the wire after that time (R300,
R312; T-RST-04). In IDLE, and in the RX_SETTLE that ends a send (R205) or a reset, it moves no output and cuts no byte; so
it does in the quiet state of the safe stop (R317). That TXE falls before RXE rises at reset too is read from R224
(assumption log 10). -/
def Obligations.ResetAssertedOnTheLine : Prop :=
  (∀ (P : Config.Params) (s : State),
    ∃ t, agentStep P .rstAssert s = .next t ∧ t.rst = true ∧ t.answers = s.answers ∧
      (s.phase = .idle ∨ s.phase = .rxSettle →
        t.edges = s.edges ∧ t.rxe = s.rxe ∧ t.txe = s.txe ∧ t.dir = s.dir ∧ (WireOk s → t.wire = s.wire))) ∧
  (∀ (P : Config.Params) (s : State), s.rst = false → s.phase = .txSettle ∨ s.phase = .txData →
    ∃ t, agentStep P .rstAssert s = .next t ∧ t.rxe = true ∧ t.txe = false ∧
      t.edges = s.edges ++ edgesToReceive s.now ∧ (∀ b ∈ t.wire, b.stop ≤ s.now) ∧
      (∀ b ∈ s.wire, b.stop ≤ s.now → b ∈ t.wire) ∧
      ∀ b ∈ s.wire, b.start < s.now → s.now < b.stop → { b with stop := s.now, cut := true } ∈ t.wire) ∧
  ∀ (P : Config.Params) (s t : State), WireOk s → Quiet s → agentStep P .rstAssert s = .next t →
    t.wire = s.wire ∧ t.edges = s.edges ∧ t.rxe = s.rxe ∧ t.txe = s.txe

/-- After every reset, the first and each later one alike (R300), the settle delay runs before any line request can be
granted (R302): nothing is granted before SETTLE_RESET µs have passed since the release. The first release is that of the
state after reset. -/
def Obligations.ResetSettleComesFirst : Prop :=
  (∀ (P : Config.Params) (ev : Nat → Event) (s t : State) (n : Nat),
    s.rst = true → agentStep P .rstRelease s = .next t → (∀ k, k < n → ev k ≠ .rstAssert) →
    (follow P ev t n).phase ≠ .rxSettle → s.now + (P.settleReset.toNat : Rat) ≤ (follow P ev t n).now) ∧
  ∀ (P : Config.Params) (ev : Nat → Event) (n : Nat), (∀ k, k < n → ev k ≠ .rstAssert) →
    (follow P ev (State.resetWith P) n).phase ≠ .rxSettle →
    (State.resetWith P).now + (P.settleReset.toNat : Rat) ≤ (follow P ev (State.resetWith P) n).now
end

