-- ==== Sys2Proof/Laws/State.lean ====
section
/-! SUPPORT. One lemma per field per update of the state, so that no later proof unfolds a record update. -/

namespace Sys2Proof.Machine

variable (s : State)

/-! ### `modPort` -/

@[simp] theorem State.modPort_ports (p : Nat) (f : Port → Port) : (s.modPort p f).ports = s.ports.modify p f := rfl
@[simp] theorem State.modPort_ctrl (p : Nat) (f : Port → Port) : (s.modPort p f).ctrl = s.ctrl := rfl
@[simp] theorem State.modPort_baud (p : Nat) (f : Port → Port) : (s.modPort p f).baud = s.baud := rfl
@[simp] theorem State.modPort_settleUs (p : Nat) (f : Port → Port) : (s.modPort p f).settleUs = s.settleUs := rfl
@[simp] theorem State.modPort_rxOvf (p : Nat) (f : Port → Port) : (s.modPort p f).rxOvf = s.rxOvf := rfl
@[simp] theorem State.modPort_pbuf0 (p : Nat) (f : Port → Port) : (s.modPort p f).pbuf0 = s.pbuf0 := rfl
@[simp] theorem State.modPort_pbuf1 (p : Nat) (f : Port → Port) : (s.modPort p f).pbuf1 = s.pbuf1 := rfl
@[simp] theorem State.modPort_rxfifo (p : Nat) (f : Port → Port) : (s.modPort p f).rxfifo = s.rxfifo := rfl
@[simp] theorem State.modPort_phase (p : Nat) (f : Port → Port) : (s.modPort p f).phase = s.phase := rfl
@[simp] theorem State.modPort_deadline (p : Nat) (f : Port → Port) : (s.modPort p f).deadline = s.deadline := rfl
@[simp] theorem State.modPort_owner (p : Nat) (f : Port → Port) : (s.modPort p f).owner = s.owner := rfl
@[simp] theorem State.modPort_txq (p : Nat) (f : Port → Port) : (s.modPort p f).txq = s.txq := rfl
@[simp] theorem State.modPort_txmask (p : Nat) (f : Port → Port) : (s.modPort p f).txmask = s.txmask := rfl
@[simp] theorem State.modPort_now (p : Nat) (f : Port → Port) : (s.modPort p f).now = s.now := rfl
@[simp] theorem State.modPort_rst (p : Nat) (f : Port → Port) : (s.modPort p f).rst = s.rst := rfl
@[simp] theorem State.modPort_cur (p : Nat) (f : Port → Port) : (s.modPort p f).cur = s.cur := rfl
@[simp] theorem State.modPort_lineByte (p : Nat) (f : Port → Port) : (s.modPort p f).lineByte = s.lineByte := rfl
@[simp] theorem State.modPort_sched (p : Nat) (f : Port → Port) : (s.modPort p f).sched = s.sched := rfl
@[simp] theorem State.modPort_answers (p : Nat) (f : Port → Port) : (s.modPort p f).answers = s.answers := rfl
@[simp] theorem State.modPort_wire (p : Nat) (f : Port → Port) : (s.modPort p f).wire = s.wire := rfl
@[simp] theorem State.modPort_edges (p : Nat) (f : Port → Port) : (s.modPort p f).edges = s.edges := rfl

/-! ### `setCurCrc` -/

@[simp] theorem State.setCurCrc_ports (c : Byte) : (s.setCurCrc c).ports = s.ports.modify s.cur (fun q => { q with crc := c }) := rfl
@[simp] theorem State.setCurCrc_ctrl (c : Byte) : (s.setCurCrc c).ctrl = s.ctrl := rfl
@[simp] theorem State.setCurCrc_baud (c : Byte) : (s.setCurCrc c).baud = s.baud := rfl
@[simp] theorem State.setCurCrc_settleUs (c : Byte) : (s.setCurCrc c).settleUs = s.settleUs := rfl
@[simp] theorem State.setCurCrc_rxOvf (c : Byte) : (s.setCurCrc c).rxOvf = s.rxOvf := rfl
@[simp] theorem State.setCurCrc_pbuf0 (c : Byte) : (s.setCurCrc c).pbuf0 = s.pbuf0 := rfl
@[simp] theorem State.setCurCrc_pbuf1 (c : Byte) : (s.setCurCrc c).pbuf1 = s.pbuf1 := rfl
@[simp] theorem State.setCurCrc_rxfifo (c : Byte) : (s.setCurCrc c).rxfifo = s.rxfifo := rfl
@[simp] theorem State.setCurCrc_phase (c : Byte) : (s.setCurCrc c).phase = s.phase := rfl
@[simp] theorem State.setCurCrc_deadline (c : Byte) : (s.setCurCrc c).deadline = s.deadline := rfl
@[simp] theorem State.setCurCrc_owner (c : Byte) : (s.setCurCrc c).owner = s.owner := rfl
@[simp] theorem State.setCurCrc_txq (c : Byte) : (s.setCurCrc c).txq = s.txq := rfl
@[simp] theorem State.setCurCrc_txmask (c : Byte) : (s.setCurCrc c).txmask = s.txmask := rfl
@[simp] theorem State.setCurCrc_now (c : Byte) : (s.setCurCrc c).now = s.now := rfl
@[simp] theorem State.setCurCrc_rst (c : Byte) : (s.setCurCrc c).rst = s.rst := rfl
@[simp] theorem State.setCurCrc_cur (c : Byte) : (s.setCurCrc c).cur = s.cur := rfl
@[simp] theorem State.setCurCrc_lineByte (c : Byte) : (s.setCurCrc c).lineByte = s.lineByte := rfl
@[simp] theorem State.setCurCrc_sched (c : Byte) : (s.setCurCrc c).sched = s.sched := rfl
@[simp] theorem State.setCurCrc_answers (c : Byte) : (s.setCurCrc c).answers = s.answers := rfl
@[simp] theorem State.setCurCrc_wire (c : Byte) : (s.setCurCrc c).wire = s.wire := rfl
@[simp] theorem State.setCurCrc_edges (c : Byte) : (s.setCurCrc c).edges = s.edges := rfl

/-! ### `clearPend` -/

@[simp] theorem State.clearPend_ports (p : Nat) : (s.clearPend p).ports = s.ports.modify p (fun q => { q with pend := none }) := rfl
@[simp] theorem State.clearPend_ctrl (p : Nat) : (s.clearPend p).ctrl = s.ctrl := rfl
@[simp] theorem State.clearPend_baud (p : Nat) : (s.clearPend p).baud = s.baud := rfl
@[simp] theorem State.clearPend_settleUs (p : Nat) : (s.clearPend p).settleUs = s.settleUs := rfl
@[simp] theorem State.clearPend_rxOvf (p : Nat) : (s.clearPend p).rxOvf = s.rxOvf := rfl
@[simp] theorem State.clearPend_pbuf0 (p : Nat) : (s.clearPend p).pbuf0 = s.pbuf0 := rfl
@[simp] theorem State.clearPend_pbuf1 (p : Nat) : (s.clearPend p).pbuf1 = s.pbuf1 := rfl
@[simp] theorem State.clearPend_rxfifo (p : Nat) : (s.clearPend p).rxfifo = s.rxfifo := rfl
@[simp] theorem State.clearPend_phase (p : Nat) : (s.clearPend p).phase = s.phase := rfl
@[simp] theorem State.clearPend_deadline (p : Nat) : (s.clearPend p).deadline = s.deadline := rfl
@[simp] theorem State.clearPend_owner (p : Nat) : (s.clearPend p).owner = s.owner := rfl
@[simp] theorem State.clearPend_txq (p : Nat) : (s.clearPend p).txq = s.txq := rfl
@[simp] theorem State.clearPend_txmask (p : Nat) : (s.clearPend p).txmask = s.txmask := rfl
@[simp] theorem State.clearPend_now (p : Nat) : (s.clearPend p).now = s.now := rfl
@[simp] theorem State.clearPend_rst (p : Nat) : (s.clearPend p).rst = s.rst := rfl
@[simp] theorem State.clearPend_cur (p : Nat) : (s.clearPend p).cur = s.cur := rfl
@[simp] theorem State.clearPend_lineByte (p : Nat) : (s.clearPend p).lineByte = s.lineByte := rfl
@[simp] theorem State.clearPend_sched (p : Nat) : (s.clearPend p).sched = s.sched := rfl
@[simp] theorem State.clearPend_answers (p : Nat) : (s.clearPend p).answers = s.answers := rfl
@[simp] theorem State.clearPend_wire (p : Nat) : (s.clearPend p).wire = s.wire := rfl
@[simp] theorem State.clearPend_edges (p : Nat) : (s.clearPend p).edges = s.edges := rfl

/-! ### `answer` -/

@[simp] theorem State.answer_ports (p : Nat) (r : Response) : (s.answer p r).ports = s.ports.modify p (fun q => { q with cmd := none }) := rfl
@[simp] theorem State.answer_ctrl (p : Nat) (r : Response) : (s.answer p r).ctrl = s.ctrl := rfl
@[simp] theorem State.answer_baud (p : Nat) (r : Response) : (s.answer p r).baud = s.baud := rfl
@[simp] theorem State.answer_settleUs (p : Nat) (r : Response) : (s.answer p r).settleUs = s.settleUs := rfl
@[simp] theorem State.answer_rxOvf (p : Nat) (r : Response) : (s.answer p r).rxOvf = s.rxOvf := rfl
@[simp] theorem State.answer_pbuf0 (p : Nat) (r : Response) : (s.answer p r).pbuf0 = s.pbuf0 := rfl
@[simp] theorem State.answer_pbuf1 (p : Nat) (r : Response) : (s.answer p r).pbuf1 = s.pbuf1 := rfl
@[simp] theorem State.answer_rxfifo (p : Nat) (r : Response) : (s.answer p r).rxfifo = s.rxfifo := rfl
@[simp] theorem State.answer_phase (p : Nat) (r : Response) : (s.answer p r).phase = s.phase := rfl
@[simp] theorem State.answer_deadline (p : Nat) (r : Response) : (s.answer p r).deadline = s.deadline := rfl
@[simp] theorem State.answer_owner (p : Nat) (r : Response) : (s.answer p r).owner = s.owner := rfl
@[simp] theorem State.answer_txq (p : Nat) (r : Response) : (s.answer p r).txq = s.txq := rfl
@[simp] theorem State.answer_txmask (p : Nat) (r : Response) : (s.answer p r).txmask = s.txmask := rfl
@[simp] theorem State.answer_now (p : Nat) (r : Response) : (s.answer p r).now = s.now := rfl
@[simp] theorem State.answer_rst (p : Nat) (r : Response) : (s.answer p r).rst = s.rst := rfl
@[simp] theorem State.answer_cur (p : Nat) (r : Response) : (s.answer p r).cur = s.cur := rfl
@[simp] theorem State.answer_lineByte (p : Nat) (r : Response) : (s.answer p r).lineByte = s.lineByte := rfl
@[simp] theorem State.answer_sched (p : Nat) (r : Response) : (s.answer p r).sched = s.sched := rfl
@[simp] theorem State.answer_answers (p : Nat) (r : Response) : (s.answer p r).answers = s.answers ++ [⟨p, s.now, r⟩] := rfl
@[simp] theorem State.answer_wire (p : Nat) (r : Response) : (s.answer p r).wire = s.wire := rfl
@[simp] theorem State.answer_edges (p : Nat) (r : Response) : (s.answer p r).edges = s.edges := rfl

/-! ### `ended` -/

@[simp] theorem State.ended_ports (q : Port) (r : Response) : (s.ended q r).ports = s.ports.set s.cur q := rfl
@[simp] theorem State.ended_ctrl (q : Port) (r : Response) : (s.ended q r).ctrl = s.ctrl := rfl
@[simp] theorem State.ended_baud (q : Port) (r : Response) : (s.ended q r).baud = s.baud := rfl
@[simp] theorem State.ended_settleUs (q : Port) (r : Response) : (s.ended q r).settleUs = s.settleUs := rfl
@[simp] theorem State.ended_rxOvf (q : Port) (r : Response) : (s.ended q r).rxOvf = s.rxOvf := rfl
@[simp] theorem State.ended_pbuf0 (q : Port) (r : Response) : (s.ended q r).pbuf0 = s.pbuf0 := rfl
@[simp] theorem State.ended_pbuf1 (q : Port) (r : Response) : (s.ended q r).pbuf1 = s.pbuf1 := rfl
@[simp] theorem State.ended_rxfifo (q : Port) (r : Response) : (s.ended q r).rxfifo = s.rxfifo := rfl
@[simp] theorem State.ended_phase (q : Port) (r : Response) : (s.ended q r).phase = s.phase := rfl
@[simp] theorem State.ended_deadline (q : Port) (r : Response) : (s.ended q r).deadline = s.deadline := rfl
@[simp] theorem State.ended_owner (q : Port) (r : Response) : (s.ended q r).owner = s.owner := rfl
@[simp] theorem State.ended_txq (q : Port) (r : Response) : (s.ended q r).txq = s.txq := rfl
@[simp] theorem State.ended_txmask (q : Port) (r : Response) : (s.ended q r).txmask = s.txmask := rfl
@[simp] theorem State.ended_now (q : Port) (r : Response) : (s.ended q r).now = s.now := rfl
@[simp] theorem State.ended_rst (q : Port) (r : Response) : (s.ended q r).rst = s.rst := rfl
@[simp] theorem State.ended_cur (q : Port) (r : Response) : (s.ended q r).cur = s.cur := rfl
@[simp] theorem State.ended_lineByte (q : Port) (r : Response) : (s.ended q r).lineByte = s.lineByte := rfl
@[simp] theorem State.ended_sched (q : Port) (r : Response) : (s.ended q r).sched = s.sched := rfl
@[simp] theorem State.ended_answers (q : Port) (r : Response) : (s.ended q r).answers = s.answers ++ [⟨s.cur, s.now, r⟩] := rfl
@[simp] theorem State.ended_wire (q : Port) (r : Response) : (s.ended q r).wire = s.wire := rfl
@[simp] theorem State.ended_edges (q : Port) (r : Response) : (s.ended q r).edges = s.edges := rfl

/-! ### `pendWith` -/

@[simp] theorem State.pendWith_ports (q : Port) (r : Request) : (s.pendWith q r).ports = s.ports.set s.cur { q with pend := some r } := rfl
@[simp] theorem State.pendWith_ctrl (q : Port) (r : Request) : (s.pendWith q r).ctrl = s.ctrl := rfl
@[simp] theorem State.pendWith_baud (q : Port) (r : Request) : (s.pendWith q r).baud = s.baud := rfl
@[simp] theorem State.pendWith_settleUs (q : Port) (r : Request) : (s.pendWith q r).settleUs = s.settleUs := rfl
@[simp] theorem State.pendWith_rxOvf (q : Port) (r : Request) : (s.pendWith q r).rxOvf = s.rxOvf := rfl
@[simp] theorem State.pendWith_pbuf0 (q : Port) (r : Request) : (s.pendWith q r).pbuf0 = s.pbuf0 := rfl
@[simp] theorem State.pendWith_pbuf1 (q : Port) (r : Request) : (s.pendWith q r).pbuf1 = s.pbuf1 := rfl
@[simp] theorem State.pendWith_rxfifo (q : Port) (r : Request) : (s.pendWith q r).rxfifo = s.rxfifo := rfl
@[simp] theorem State.pendWith_phase (q : Port) (r : Request) : (s.pendWith q r).phase = s.phase := rfl
@[simp] theorem State.pendWith_deadline (q : Port) (r : Request) : (s.pendWith q r).deadline = s.deadline := rfl
@[simp] theorem State.pendWith_owner (q : Port) (r : Request) : (s.pendWith q r).owner = s.owner := rfl
@[simp] theorem State.pendWith_txq (q : Port) (r : Request) : (s.pendWith q r).txq = s.txq := rfl
@[simp] theorem State.pendWith_txmask (q : Port) (r : Request) : (s.pendWith q r).txmask = s.txmask := rfl
@[simp] theorem State.pendWith_now (q : Port) (r : Request) : (s.pendWith q r).now = s.now := rfl
@[simp] theorem State.pendWith_rst (q : Port) (r : Request) : (s.pendWith q r).rst = s.rst := rfl
@[simp] theorem State.pendWith_cur (q : Port) (r : Request) : (s.pendWith q r).cur = s.cur := rfl
@[simp] theorem State.pendWith_lineByte (q : Port) (r : Request) : (s.pendWith q r).lineByte = s.lineByte := rfl
@[simp] theorem State.pendWith_sched (q : Port) (r : Request) : (s.pendWith q r).sched = s.sched := rfl
@[simp] theorem State.pendWith_answers (q : Port) (r : Request) : (s.pendWith q r).answers = s.answers := rfl
@[simp] theorem State.pendWith_wire (q : Port) (r : Request) : (s.pendWith q r).wire = s.wire := rfl
@[simp] theorem State.pendWith_edges (q : Port) (r : Request) : (s.pendWith q r).edges = s.edges := rfl

/-! ### `setPbuf` -/

@[simp] theorem State.setPbuf_ports (i : ParserId) (b : Bytes) : (s.setPbuf i b).ports = s.ports := by cases i <;> rfl
@[simp] theorem State.setPbuf_ctrl (i : ParserId) (b : Bytes) : (s.setPbuf i b).ctrl = s.ctrl := by cases i <;> rfl
@[simp] theorem State.setPbuf_baud (i : ParserId) (b : Bytes) : (s.setPbuf i b).baud = s.baud := by cases i <;> rfl
@[simp] theorem State.setPbuf_settleUs (i : ParserId) (b : Bytes) : (s.setPbuf i b).settleUs = s.settleUs := by cases i <;> rfl
@[simp] theorem State.setPbuf_rxOvf (i : ParserId) (b : Bytes) : (s.setPbuf i b).rxOvf = s.rxOvf := by cases i <;> rfl
@[simp] theorem State.setPbuf_rxfifo (i : ParserId) (b : Bytes) : (s.setPbuf i b).rxfifo = s.rxfifo := by cases i <;> rfl
@[simp] theorem State.setPbuf_phase (i : ParserId) (b : Bytes) : (s.setPbuf i b).phase = s.phase := by cases i <;> rfl
@[simp] theorem State.setPbuf_deadline (i : ParserId) (b : Bytes) : (s.setPbuf i b).deadline = s.deadline := by cases i <;> rfl
@[simp] theorem State.setPbuf_owner (i : ParserId) (b : Bytes) : (s.setPbuf i b).owner = s.owner := by cases i <;> rfl
@[simp] theorem State.setPbuf_txq (i : ParserId) (b : Bytes) : (s.setPbuf i b).txq = s.txq := by cases i <;> rfl
@[simp] theorem State.setPbuf_txmask (i : ParserId) (b : Bytes) : (s.setPbuf i b).txmask = s.txmask := by cases i <;> rfl
@[simp] theorem State.setPbuf_now (i : ParserId) (b : Bytes) : (s.setPbuf i b).now = s.now := by cases i <;> rfl
@[simp] theorem State.setPbuf_rst (i : ParserId) (b : Bytes) : (s.setPbuf i b).rst = s.rst := by cases i <;> rfl
@[simp] theorem State.setPbuf_cur (i : ParserId) (b : Bytes) : (s.setPbuf i b).cur = s.cur := by cases i <;> rfl
@[simp] theorem State.setPbuf_lineByte (i : ParserId) (b : Bytes) : (s.setPbuf i b).lineByte = s.lineByte := by cases i <;> rfl
@[simp] theorem State.setPbuf_sched (i : ParserId) (b : Bytes) : (s.setPbuf i b).sched = s.sched := by cases i <;> rfl
@[simp] theorem State.setPbuf_answers (i : ParserId) (b : Bytes) : (s.setPbuf i b).answers = s.answers := by cases i <;> rfl
@[simp] theorem State.setPbuf_wire (i : ParserId) (b : Bytes) : (s.setPbuf i b).wire = s.wire := by cases i <;> rfl
@[simp] theorem State.setPbuf_edges (i : ParserId) (b : Bytes) : (s.setPbuf i b).edges = s.edges := by cases i <;> rfl

/-! ### `writeLineReg` -/

@[simp] theorem State.writeLineReg_ports (r : LineReg) (v : Word) : (s.writeLineReg r v).ports = s.ports := by cases r <;> rfl
@[simp] theorem State.writeLineReg_rxOvf (r : LineReg) (v : Word) : (s.writeLineReg r v).rxOvf = s.rxOvf := by cases r <;> rfl
@[simp] theorem State.writeLineReg_pbuf0 (r : LineReg) (v : Word) : (s.writeLineReg r v).pbuf0 = s.pbuf0 := by cases r <;> rfl
@[simp] theorem State.writeLineReg_pbuf1 (r : LineReg) (v : Word) : (s.writeLineReg r v).pbuf1 = s.pbuf1 := by cases r <;> rfl
@[simp] theorem State.writeLineReg_rxfifo (r : LineReg) (v : Word) : (s.writeLineReg r v).rxfifo = s.rxfifo := by cases r <;> rfl
@[simp] theorem State.writeLineReg_phase (r : LineReg) (v : Word) : (s.writeLineReg r v).phase = s.phase := by cases r <;> rfl
@[simp] theorem State.writeLineReg_deadline (r : LineReg) (v : Word) : (s.writeLineReg r v).deadline = s.deadline := by cases r <;> rfl
@[simp] theorem State.writeLineReg_owner (r : LineReg) (v : Word) : (s.writeLineReg r v).owner = s.owner := by cases r <;> rfl
@[simp] theorem State.writeLineReg_txq (r : LineReg) (v : Word) : (s.writeLineReg r v).txq = s.txq := by cases r <;> rfl
@[simp] theorem State.writeLineReg_txmask (r : LineReg) (v : Word) : (s.writeLineReg r v).txmask = s.txmask := by cases r <;> rfl
@[simp] theorem State.writeLineReg_now (r : LineReg) (v : Word) : (s.writeLineReg r v).now = s.now := by cases r <;> rfl
@[simp] theorem State.writeLineReg_rst (r : LineReg) (v : Word) : (s.writeLineReg r v).rst = s.rst := by cases r <;> rfl
@[simp] theorem State.writeLineReg_cur (r : LineReg) (v : Word) : (s.writeLineReg r v).cur = s.cur := by cases r <;> rfl
@[simp] theorem State.writeLineReg_lineByte (r : LineReg) (v : Word) : (s.writeLineReg r v).lineByte = s.lineByte := by cases r <;> rfl
@[simp] theorem State.writeLineReg_sched (r : LineReg) (v : Word) : (s.writeLineReg r v).sched = s.sched := by cases r <;> rfl
@[simp] theorem State.writeLineReg_answers (r : LineReg) (v : Word) : (s.writeLineReg r v).answers = s.answers := by cases r <;> rfl
@[simp] theorem State.writeLineReg_wire (r : LineReg) (v : Word) : (s.writeLineReg r v).wire = s.wire := by cases r <;> rfl
@[simp] theorem State.writeLineReg_edges (r : LineReg) (v : Word) : (s.writeLineReg r v).edges = s.edges := by cases r <;> rfl

/-! ### `writeStatus` -/

@[simp] theorem State.writeStatus_ports (v : Word) : (s.writeStatus v).ports = s.ports := rfl
@[simp] theorem State.writeStatus_ctrl (v : Word) : (s.writeStatus v).ctrl = s.ctrl := rfl
@[simp] theorem State.writeStatus_baud (v : Word) : (s.writeStatus v).baud = s.baud := rfl
@[simp] theorem State.writeStatus_settleUs (v : Word) : (s.writeStatus v).settleUs = s.settleUs := rfl
@[simp] theorem State.writeStatus_rxOvf (v : Word) : (s.writeStatus v).rxOvf = (s.rxOvf && !v.getLsbD 2) := rfl
@[simp] theorem State.writeStatus_pbuf0 (v : Word) : (s.writeStatus v).pbuf0 = s.pbuf0 := rfl
@[simp] theorem State.writeStatus_pbuf1 (v : Word) : (s.writeStatus v).pbuf1 = s.pbuf1 := rfl
@[simp] theorem State.writeStatus_rxfifo (v : Word) : (s.writeStatus v).rxfifo = s.rxfifo := rfl
@[simp] theorem State.writeStatus_phase (v : Word) : (s.writeStatus v).phase = s.phase := rfl
@[simp] theorem State.writeStatus_deadline (v : Word) : (s.writeStatus v).deadline = s.deadline := rfl
@[simp] theorem State.writeStatus_owner (v : Word) : (s.writeStatus v).owner = s.owner := rfl
@[simp] theorem State.writeStatus_txq (v : Word) : (s.writeStatus v).txq = s.txq := rfl
@[simp] theorem State.writeStatus_txmask (v : Word) : (s.writeStatus v).txmask = s.txmask := rfl
@[simp] theorem State.writeStatus_now (v : Word) : (s.writeStatus v).now = s.now := rfl
@[simp] theorem State.writeStatus_rst (v : Word) : (s.writeStatus v).rst = s.rst := rfl
@[simp] theorem State.writeStatus_cur (v : Word) : (s.writeStatus v).cur = s.cur := rfl
@[simp] theorem State.writeStatus_lineByte (v : Word) : (s.writeStatus v).lineByte = s.lineByte := rfl
@[simp] theorem State.writeStatus_sched (v : Word) : (s.writeStatus v).sched = s.sched := rfl
@[simp] theorem State.writeStatus_answers (v : Word) : (s.writeStatus v).answers = s.answers := rfl
@[simp] theorem State.writeStatus_wire (v : Word) : (s.writeStatus v).wire = s.wire := rfl
@[simp] theorem State.writeStatus_edges (v : Word) : (s.writeStatus v).edges = s.edges := rfl

/-! ### `rxAccept` -/

@[simp] theorem State.rxAccept_ports (P : Config.Params) (v : Byte) : (s.rxAccept P v).ports = s.ports := by unfold State.rxAccept; split <;> rfl
@[simp] theorem State.rxAccept_ctrl (P : Config.Params) (v : Byte) : (s.rxAccept P v).ctrl = s.ctrl := by unfold State.rxAccept; split <;> rfl
@[simp] theorem State.rxAccept_baud (P : Config.Params) (v : Byte) : (s.rxAccept P v).baud = s.baud := by unfold State.rxAccept; split <;> rfl
@[simp] theorem State.rxAccept_settleUs (P : Config.Params) (v : Byte) : (s.rxAccept P v).settleUs = s.settleUs := by unfold State.rxAccept; split <;> rfl
@[simp] theorem State.rxAccept_rxOvf (P : Config.Params) (v : Byte) : (s.rxAccept P v).rxOvf = if s.rxfifo.length < P.rxFifoDepth then s.rxOvf else true := by unfold State.rxAccept; split <;> rfl
@[simp] theorem State.rxAccept_pbuf0 (P : Config.Params) (v : Byte) : (s.rxAccept P v).pbuf0 = s.pbuf0 := by unfold State.rxAccept; split <;> rfl
@[simp] theorem State.rxAccept_pbuf1 (P : Config.Params) (v : Byte) : (s.rxAccept P v).pbuf1 = s.pbuf1 := by unfold State.rxAccept; split <;> rfl
@[simp] theorem State.rxAccept_rxfifo (P : Config.Params) (v : Byte) : (s.rxAccept P v).rxfifo = if s.rxfifo.length < P.rxFifoDepth then s.rxfifo ++ [v] else s.rxfifo := by unfold State.rxAccept; split <;> rfl
@[simp] theorem State.rxAccept_phase (P : Config.Params) (v : Byte) : (s.rxAccept P v).phase = s.phase := by unfold State.rxAccept; split <;> rfl
@[simp] theorem State.rxAccept_deadline (P : Config.Params) (v : Byte) : (s.rxAccept P v).deadline = s.deadline := by unfold State.rxAccept; split <;> rfl
@[simp] theorem State.rxAccept_owner (P : Config.Params) (v : Byte) : (s.rxAccept P v).owner = s.owner := by unfold State.rxAccept; split <;> rfl
@[simp] theorem State.rxAccept_txq (P : Config.Params) (v : Byte) : (s.rxAccept P v).txq = s.txq := by unfold State.rxAccept; split <;> rfl
@[simp] theorem State.rxAccept_txmask (P : Config.Params) (v : Byte) : (s.rxAccept P v).txmask = s.txmask := by unfold State.rxAccept; split <;> rfl
@[simp] theorem State.rxAccept_now (P : Config.Params) (v : Byte) : (s.rxAccept P v).now = s.now := by unfold State.rxAccept; split <;> rfl
@[simp] theorem State.rxAccept_rst (P : Config.Params) (v : Byte) : (s.rxAccept P v).rst = s.rst := by unfold State.rxAccept; split <;> rfl
@[simp] theorem State.rxAccept_cur (P : Config.Params) (v : Byte) : (s.rxAccept P v).cur = s.cur := by unfold State.rxAccept; split <;> rfl
@[simp] theorem State.rxAccept_lineByte (P : Config.Params) (v : Byte) : (s.rxAccept P v).lineByte = s.lineByte := by unfold State.rxAccept; split <;> rfl
@[simp] theorem State.rxAccept_sched (P : Config.Params) (v : Byte) : (s.rxAccept P v).sched = s.sched := by unfold State.rxAccept; split <;> rfl
@[simp] theorem State.rxAccept_answers (P : Config.Params) (v : Byte) : (s.rxAccept P v).answers = s.answers := by unfold State.rxAccept; split <;> rfl
@[simp] theorem State.rxAccept_wire (P : Config.Params) (v : Byte) : (s.rxAccept P v).wire = s.wire := by unfold State.rxAccept; split <;> rfl
@[simp] theorem State.rxAccept_edges (P : Config.Params) (v : Byte) : (s.rxAccept P v).edges = s.edges := by unfold State.rxAccept; split <;> rfl

/-! ### `grantSend` -/

@[simp] theorem State.grantSend_ports (p : Nat) (d : Bytes) : (s.grantSend p d).ports = s.ports.modify p (fun q => { q with pend := none }) := rfl
@[simp] theorem State.grantSend_ctrl (p : Nat) (d : Bytes) : (s.grantSend p d).ctrl = s.ctrl := rfl
@[simp] theorem State.grantSend_baud (p : Nat) (d : Bytes) : (s.grantSend p d).baud = s.baud := rfl
@[simp] theorem State.grantSend_settleUs (p : Nat) (d : Bytes) : (s.grantSend p d).settleUs = s.settleUs := rfl
@[simp] theorem State.grantSend_rxOvf (p : Nat) (d : Bytes) : (s.grantSend p d).rxOvf = s.rxOvf := rfl
@[simp] theorem State.grantSend_pbuf0 (p : Nat) (d : Bytes) : (s.grantSend p d).pbuf0 = s.pbuf0 := rfl
@[simp] theorem State.grantSend_pbuf1 (p : Nat) (d : Bytes) : (s.grantSend p d).pbuf1 = s.pbuf1 := rfl
@[simp] theorem State.grantSend_rxfifo (p : Nat) (d : Bytes) : (s.grantSend p d).rxfifo = s.rxfifo := rfl
@[simp] theorem State.grantSend_phase (p : Nat) (d : Bytes) : (s.grantSend p d).phase = .txSettle := rfl
@[simp] theorem State.grantSend_deadline (p : Nat) (d : Bytes) : (s.grantSend p d).deadline = s.now + (s.settle.toNat : Rat) := rfl
@[simp] theorem State.grantSend_owner (p : Nat) (d : Bytes) : (s.grantSend p d).owner = some p := rfl
@[simp] theorem State.grantSend_txq (p : Nat) (d : Bytes) : (s.grantSend p d).txq = d := rfl
@[simp] theorem State.grantSend_txmask (p : Nat) (d : Bytes) : (s.grantSend p d).txmask = s.invertMask := rfl
@[simp] theorem State.grantSend_now (p : Nat) (d : Bytes) : (s.grantSend p d).now = s.now := rfl
@[simp] theorem State.grantSend_rst (p : Nat) (d : Bytes) : (s.grantSend p d).rst = s.rst := rfl
@[simp] theorem State.grantSend_cur (p : Nat) (d : Bytes) : (s.grantSend p d).cur = s.cur := rfl
@[simp] theorem State.grantSend_lineByte (p : Nat) (d : Bytes) : (s.grantSend p d).lineByte = s.lineByte.map RxWatch.onRxeFall := rfl
@[simp] theorem State.grantSend_sched (p : Nat) (d : Bytes) : (s.grantSend p d).sched = s.sched := rfl
@[simp] theorem State.grantSend_answers (p : Nat) (d : Bytes) : (s.grantSend p d).answers = s.answers := rfl
@[simp] theorem State.grantSend_wire (p : Nat) (d : Bytes) : (s.grantSend p d).wire = s.wire := rfl
@[simp] theorem State.grantSend_edges (p : Nat) (d : Bytes) : (s.grantSend p d).edges = s.edges ++ edgesToTransmit s.now := rfl

/-! ### `endTxSettle` -/

@[simp] theorem State.endTxSettle_ports (P : Config.Params) : (s.endTxSettle P).ports = s.ports := rfl
@[simp] theorem State.endTxSettle_ctrl (P : Config.Params) : (s.endTxSettle P).ctrl = s.ctrl := rfl
@[simp] theorem State.endTxSettle_baud (P : Config.Params) : (s.endTxSettle P).baud = s.baud := rfl
@[simp] theorem State.endTxSettle_settleUs (P : Config.Params) : (s.endTxSettle P).settleUs = s.settleUs := rfl
@[simp] theorem State.endTxSettle_rxOvf (P : Config.Params) : (s.endTxSettle P).rxOvf = s.rxOvf := rfl
@[simp] theorem State.endTxSettle_pbuf0 (P : Config.Params) : (s.endTxSettle P).pbuf0 = s.pbuf0 := rfl
@[simp] theorem State.endTxSettle_pbuf1 (P : Config.Params) : (s.endTxSettle P).pbuf1 = s.pbuf1 := rfl
@[simp] theorem State.endTxSettle_rxfifo (P : Config.Params) : (s.endTxSettle P).rxfifo = s.rxfifo := rfl
@[simp] theorem State.endTxSettle_phase (P : Config.Params) : (s.endTxSettle P).phase = .txData := rfl
@[simp] theorem State.endTxSettle_deadline (P : Config.Params) : (s.endTxSettle P).deadline = s.now + tWire P s.baud s.txq.length := rfl
@[simp] theorem State.endTxSettle_owner (P : Config.Params) : (s.endTxSettle P).owner = s.owner := rfl
@[simp] theorem State.endTxSettle_txq (P : Config.Params) : (s.endTxSettle P).txq = s.txq := rfl
@[simp] theorem State.endTxSettle_txmask (P : Config.Params) : (s.endTxSettle P).txmask = s.txmask := rfl
@[simp] theorem State.endTxSettle_now (P : Config.Params) : (s.endTxSettle P).now = s.now := rfl
@[simp] theorem State.endTxSettle_rst (P : Config.Params) : (s.endTxSettle P).rst = s.rst := rfl
@[simp] theorem State.endTxSettle_cur (P : Config.Params) : (s.endTxSettle P).cur = s.cur := rfl
@[simp] theorem State.endTxSettle_lineByte (P : Config.Params) : (s.endTxSettle P).lineByte = s.lineByte := rfl
@[simp] theorem State.endTxSettle_sched (P : Config.Params) : (s.endTxSettle P).sched = s.sched := rfl
@[simp] theorem State.endTxSettle_answers (P : Config.Params) : (s.endTxSettle P).answers = s.answers := rfl
@[simp] theorem State.endTxSettle_wire (P : Config.Params) : (s.endTxSettle P).wire = s.wire ++ emission s.txmask (tByte P s.baud) s.now s.txq := rfl
@[simp] theorem State.endTxSettle_edges (P : Config.Params) : (s.endTxSettle P).edges = s.edges := rfl

/-! ### `endTxData` -/

@[simp] theorem State.endTxData_ports : s.endTxData.ports = s.ports := rfl
@[simp] theorem State.endTxData_ctrl : s.endTxData.ctrl = s.ctrl := rfl
@[simp] theorem State.endTxData_baud : s.endTxData.baud = s.baud := rfl
@[simp] theorem State.endTxData_settleUs : s.endTxData.settleUs = s.settleUs := rfl
@[simp] theorem State.endTxData_rxOvf : s.endTxData.rxOvf = s.rxOvf := rfl
@[simp] theorem State.endTxData_pbuf0 : s.endTxData.pbuf0 = s.pbuf0 := rfl
@[simp] theorem State.endTxData_pbuf1 : s.endTxData.pbuf1 = s.pbuf1 := rfl
@[simp] theorem State.endTxData_rxfifo : s.endTxData.rxfifo = s.rxfifo := rfl
@[simp] theorem State.endTxData_phase : s.endTxData.phase = .rxSettle := rfl
@[simp] theorem State.endTxData_deadline : s.endTxData.deadline = s.now + (s.settle.toNat : Rat) := rfl
@[simp] theorem State.endTxData_owner : s.endTxData.owner = s.owner := rfl
@[simp] theorem State.endTxData_txq : s.endTxData.txq = [] := rfl
@[simp] theorem State.endTxData_txmask : s.endTxData.txmask = s.txmask := rfl
@[simp] theorem State.endTxData_now : s.endTxData.now = s.now := rfl
@[simp] theorem State.endTxData_rst : s.endTxData.rst = s.rst := rfl
@[simp] theorem State.endTxData_cur : s.endTxData.cur = s.cur := rfl
@[simp] theorem State.endTxData_lineByte : s.endTxData.lineByte = s.lineByte := rfl
@[simp] theorem State.endTxData_sched : s.endTxData.sched = s.sched := rfl
@[simp] theorem State.endTxData_answers : s.endTxData.answers = s.answers := rfl
@[simp] theorem State.endTxData_wire : s.endTxData.wire = s.wire := rfl
@[simp] theorem State.endTxData_edges : s.endTxData.edges = s.edges ++ edgesToReceive s.now := rfl

/-! ### `endRxSettle` -/

@[simp] theorem State.endRxSettle_ctrl : s.endRxSettle.ctrl = s.ctrl := by unfold State.endRxSettle; split <;> simp_all
@[simp] theorem State.endRxSettle_baud : s.endRxSettle.baud = s.baud := by unfold State.endRxSettle; split <;> simp_all
@[simp] theorem State.endRxSettle_settleUs : s.endRxSettle.settleUs = s.settleUs := by unfold State.endRxSettle; split <;> simp_all
@[simp] theorem State.endRxSettle_rxOvf : s.endRxSettle.rxOvf = s.rxOvf := by unfold State.endRxSettle; split <;> simp_all
@[simp] theorem State.endRxSettle_pbuf0 : s.endRxSettle.pbuf0 = s.pbuf0 := by unfold State.endRxSettle; split <;> simp_all
@[simp] theorem State.endRxSettle_pbuf1 : s.endRxSettle.pbuf1 = s.pbuf1 := by unfold State.endRxSettle; split <;> simp_all
@[simp] theorem State.endRxSettle_rxfifo : s.endRxSettle.rxfifo = s.rxfifo := by unfold State.endRxSettle; split <;> simp_all
@[simp] theorem State.endRxSettle_phase : s.endRxSettle.phase = .idle := by unfold State.endRxSettle; split <;> simp_all
@[simp] theorem State.endRxSettle_deadline : s.endRxSettle.deadline = s.deadline := by unfold State.endRxSettle; split <;> simp_all
@[simp] theorem State.endRxSettle_owner : s.endRxSettle.owner = none := by unfold State.endRxSettle; split <;> simp_all
@[simp] theorem State.endRxSettle_txq : s.endRxSettle.txq = s.txq := by unfold State.endRxSettle; split <;> simp_all
@[simp] theorem State.endRxSettle_txmask : s.endRxSettle.txmask = s.txmask := by unfold State.endRxSettle; split <;> simp_all
@[simp] theorem State.endRxSettle_now : s.endRxSettle.now = s.now := by unfold State.endRxSettle; split <;> simp_all
@[simp] theorem State.endRxSettle_rst : s.endRxSettle.rst = s.rst := by unfold State.endRxSettle; split <;> simp_all
@[simp] theorem State.endRxSettle_cur : s.endRxSettle.cur = s.cur := by unfold State.endRxSettle; split <;> simp_all
@[simp] theorem State.endRxSettle_lineByte : s.endRxSettle.lineByte = s.lineByte := by unfold State.endRxSettle; split <;> simp_all
@[simp] theorem State.endRxSettle_sched : s.endRxSettle.sched = s.sched := by unfold State.endRxSettle; split <;> simp_all
@[simp] theorem State.endRxSettle_wire : s.endRxSettle.wire = s.wire := by unfold State.endRxSettle; split <;> simp_all
@[simp] theorem State.endRxSettle_edges : s.endRxSettle.edges = s.edges := by unfold State.endRxSettle; split <;> simp_all

/-! ### `clock` -/

@[simp] theorem State.clock_ports (d : Rat) : (s.clock d).ports = s.ports := by unfold State.clock; split <;> rfl
@[simp] theorem State.clock_ctrl (d : Rat) : (s.clock d).ctrl = s.ctrl := by unfold State.clock; split <;> rfl
@[simp] theorem State.clock_baud (d : Rat) : (s.clock d).baud = s.baud := by unfold State.clock; split <;> rfl
@[simp] theorem State.clock_settleUs (d : Rat) : (s.clock d).settleUs = s.settleUs := by unfold State.clock; split <;> rfl
@[simp] theorem State.clock_rxOvf (d : Rat) : (s.clock d).rxOvf = s.rxOvf := by unfold State.clock; split <;> rfl
@[simp] theorem State.clock_pbuf0 (d : Rat) : (s.clock d).pbuf0 = s.pbuf0 := by unfold State.clock; split <;> rfl
@[simp] theorem State.clock_pbuf1 (d : Rat) : (s.clock d).pbuf1 = s.pbuf1 := by unfold State.clock; split <;> rfl
@[simp] theorem State.clock_rxfifo (d : Rat) : (s.clock d).rxfifo = s.rxfifo := by unfold State.clock; split <;> rfl
@[simp] theorem State.clock_phase (d : Rat) : (s.clock d).phase = s.phase := by unfold State.clock; split <;> rfl
@[simp] theorem State.clock_deadline (d : Rat) : (s.clock d).deadline = s.deadline := by unfold State.clock; split <;> rfl
@[simp] theorem State.clock_owner (d : Rat) : (s.clock d).owner = s.owner := by unfold State.clock; split <;> rfl
@[simp] theorem State.clock_txq (d : Rat) : (s.clock d).txq = s.txq := by unfold State.clock; split <;> rfl
@[simp] theorem State.clock_txmask (d : Rat) : (s.clock d).txmask = s.txmask := by unfold State.clock; split <;> rfl
@[simp] theorem State.clock_now (d : Rat) : (s.clock d).now = if 0 ≤ d then s.now + d else s.now := by unfold State.clock; split <;> rfl
@[simp] theorem State.clock_rst (d : Rat) : (s.clock d).rst = s.rst := by unfold State.clock; split <;> rfl
@[simp] theorem State.clock_cur (d : Rat) : (s.clock d).cur = s.cur := by unfold State.clock; split <;> rfl
@[simp] theorem State.clock_lineByte (d : Rat) : (s.clock d).lineByte = s.lineByte := by unfold State.clock; split <;> rfl
@[simp] theorem State.clock_sched (d : Rat) : (s.clock d).sched = s.sched := by unfold State.clock; split <;> rfl
@[simp] theorem State.clock_answers (d : Rat) : (s.clock d).answers = s.answers := by unfold State.clock; split <;> rfl
@[simp] theorem State.clock_wire (d : Rat) : (s.clock d).wire = s.wire := by unfold State.clock; split <;> rfl
@[simp] theorem State.clock_edges (d : Rat) : (s.clock d).edges = s.edges := by unfold State.clock; split <;> rfl

/-! ### The cases of an update -/

@[simp] theorem State.pbuf_setPbuf (i : ParserId) (b : Bytes) : (s.setPbuf i b).pbuf i = b := by cases i <;> rfl

theorem State.pbuf_setPbuf_of_ne {i j : ParserId} (h : i ≠ j) (b : Bytes) : (s.setPbuf i b).pbuf j = s.pbuf j := by
  cases i <;> cases j <;> first | rfl | exact absurd rfl h

@[simp] theorem State.writeLineReg_ctrl_ctrl (v : Word) : (s.writeLineReg .ctrl v).ctrl = v &&& 0x00000001 := rfl
@[simp] theorem State.writeLineReg_ctrl_baud (v : Word) : (s.writeLineReg .ctrl v).baud = s.baud := rfl
@[simp] theorem State.writeLineReg_ctrl_settleUs (v : Word) : (s.writeLineReg .ctrl v).settleUs = s.settleUs := rfl
@[simp] theorem State.writeLineReg_baud_ctrl (v : Word) : (s.writeLineReg .baud v).ctrl = s.ctrl := rfl
@[simp] theorem State.writeLineReg_baud_baud (v : Word) : (s.writeLineReg .baud v).baud = v := rfl
@[simp] theorem State.writeLineReg_baud_settleUs (v : Word) : (s.writeLineReg .baud v).settleUs = s.settleUs := rfl
@[simp] theorem State.writeLineReg_settleUs_ctrl (v : Word) : (s.writeLineReg .settleUs v).ctrl = s.ctrl := rfl
@[simp] theorem State.writeLineReg_settleUs_baud (v : Word) : (s.writeLineReg .settleUs v).baud = s.baud := rfl
@[simp] theorem State.writeLineReg_settleUs_settleUs (v : Word) :
    (s.writeLineReg .settleUs v).settleUs = v &&& 0x0000FFFF := rfl

theorem State.endRxSettle_answers : s.endRxSettle.answers =
    match s.owner with
    | some q => s.answers ++ [⟨q, s.now, ⟨.ok, 0x00, []⟩⟩]
    | none => s.answers := by
  unfold State.endRxSettle; split <;> simp_all

theorem State.endRxSettle_ports : s.endRxSettle.ports =
    match s.owner with
    | some q => s.ports.modify q (fun r => { r with cmd := none })
    | none => s.ports := by
  unfold State.endRxSettle; split <;> simp_all

end Sys2Proof.Machine
end

