-- ==== Sys2Proof/Laws/Ops.lean ====
section
/-! SUPPORT. What each shared operation can do, said once: `respond`, `raise`, `request`, and from them every command. -/

namespace Sys2Proof.Machine

/-- Changing the record of a port that is there is setting it. -/
theorem modify_eq_set {l : List Port} {p : Nat} {q : Port} (h : l[p]? = some q) (f : Port → Port) :
    l.modify p f = l.set p (f q) := by
  apply List.ext_getElem?
  intro k
  rw [List.getElem?_modify, List.getElem?_set]
  by_cases hk : p = k
  · subst hk
    obtain ⟨hp, hq⟩ := List.getElem?_eq_some_iff.1 h
    simp [hp, hq]
  · simp [hk]

/-! ## Answers -/

theorem answer_eq_ended {s : State} {q : Port} (h : s.ports[s.cur]? = some q) (r : Response) :
    s.answer s.cur r = s.ended { q with cmd := none } r := by
  simp only [State.answer, State.ended, State.modPort, modify_eq_set h]

/-- On a port that is there, `respond` ends the command. -/
theorem respond_eq {s : State} {q : Port} (h : s.ports[s.cur]? = some q) (st : Status) (aux : Byte) (dout : Bytes) :
    respond st aux dout s = .next (s.ended { q with cmd := none } ⟨st, aux, dout⟩) := by
  simp only [respond, h, answer_eq_ended h]

/-- All that `respond` can do. -/
theorem respond_next {s t : State} {st : Status} {aux : Byte} {dout : Bytes} (h : respond st aux dout s = .next t) :
    ∃ q, s.ports[s.cur]? = some q ∧ t = s.ended { q with cmd := none } ⟨st, aux, dout⟩ := by
  cases hq : s.ports[s.cur]? with
  | none => simp [respond, hq] at h
  | some q =>
    rw [respond_eq hq] at h
    exact ⟨q, rfl, (Host.Outcome.next.inj h).symm⟩

/-- On a port that is there, `raise` is the error answer. -/
theorem raise_eq {s : State} {q : Port} (h : s.ports[s.cur]? = some q) (e : Status) :
    raise e s = .next (s.errWith q e) :=
  respond_eq h e 0x00 []

/-- All that `raise` can do. -/
theorem raise_next {s t : State} {e : Status} (h : raise e s = .next t) :
    ∃ q, s.ports[s.cur]? = some q ∧ t = s.ended { q with cmd := none } (Response.error e) :=
  respond_next h

/-- An answer after a parser buffer was written. -/
theorem respond_setPbuf {s : State} {q : Port} (h : s.ports[s.cur]? = some q) (st : Status) (aux : Byte) (dout : Bytes)
    (i : ParserId) (b : Bytes) :
    respond st aux dout (s.setPbuf i b) = .next ((s.setPbuf i b).ended { q with cmd := none } ⟨st, aux, dout⟩) :=
  respond_eq (by simpa using h) st aux dout

/-- An answer after the accumulator was written: the port's record changes once. -/
theorem respond_setCurCrc {s : State} {q : Port} (h : s.ports[s.cur]? = some q) (st : Status) (aux : Byte)
    (dout : Bytes) (c : Byte) :
    respond st aux dout (s.setCurCrc c) = .next (s.ended { q with crc := c, cmd := none } ⟨st, aux, dout⟩) := by
  have hp : s.cur < s.ports.length := (List.getElem?_eq_some_iff.1 h).1
  have h' : (s.setCurCrc c).ports[(s.setCurCrc c).cur]? = some { q with crc := c } := by
    simp [modify_eq_set h, hp]
  rw [respond_eq h']
  simp [State.ended, State.setCurCrc, State.modPort, modify_eq_set h]

@[simp] theorem curCrc_eq {s : State} {q : Port} (h : s.ports[s.cur]? = some q) : s.curCrc = q.crc := by
  simp [State.curCrc, h]

/-! ## Requests -/

/-- On a port that is there, `request` makes it and holds. -/
theorem request_eq {s : State} {q : Port} (h : s.ports[s.cur]? = some q) (r : Request) :
    request r s = .next (s.pendWith q r) := by
  simp only [request, h, State.pendWith, State.modPort, modify_eq_set h]

/-- All that `request` can do. -/
theorem request_next {s t : State} {r : Request} (h : request r s = .next t) :
    ∃ q, s.ports[s.cur]? = some q ∧ t = s.pendWith q r := by
  cases hq : s.ports[s.cur]? with
  | none => simp [request, hq] at h
  | some q =>
    rw [request_eq hq] at h
    exact ⟨q, rfl, (Host.Outcome.next.inj h).symm⟩

/-- `PEND[p]` of a port that is there. -/
theorem pend_eq {s : State} {p : Nat} {q : Port} (h : s.ports[p]? = some q) : s.pend p = q.pend := by
  simp [State.pend, h]

/-- A port with a request is a port of the block. -/
theorem port_of_pend {s : State} {p : Nat} {r : Request} (h : s.pend p = some r) :
    ∃ q, s.ports[p]? = some q ∧ q.pend = some r := by
  unfold State.pend at h
  split at h
  · exact ⟨_, ‹_›, h⟩
  · cases h

end Sys2Proof.Machine
end

