-- ==== Sys2Proof/Laws/Agents.lean ====
section
/-! SUPPORT. What each agent's step can do, said once: a grant, the end of a phase, a byte of the peer, the fetch of a
command; and the times and lengths on the wire. -/

namespace Sys2Proof.Machine

/-! ## Time on the wire -/

theorem tByte_nonneg (P : Config.Params) (baud : Word) : 0 ≤ tByte P baud := by unfold tByte; positivity

theorem tWire_nonneg (P : Config.Params) (baud : Word) (n : Nat) : 0 ≤ tWire P baud n :=
  mul_nonneg (by positivity) (tByte_nonneg P baud)

@[simp] theorem tWire_zero (P : Config.Params) (baud : Word) : tWire P baud 0 = 0 := by simp [tWire]

theorem tWire_succ (P : Config.Params) (baud : Word) (n : Nat) :
    tWire P baud (n + 1) = tByte P baud + tWire P baud n := by
  simp only [tWire, Nat.cast_add, Nat.cast_one]; ring

@[simp] theorem emission_nil (mask : Byte) (tb t : Rat) : emission mask tb t [] = [] := rfl

@[simp] theorem emission_cons (mask : Byte) (tb t : Rat) (b : Byte) (bs : Bytes) :
    emission mask tb t (b :: bs) = ⟨b ^^^ mask, t, t + tb, false⟩ :: emission mask tb (t + tb) bs := rfl

/-! ## The arbiter -/

/-- All that the arbiter's grant can do: nothing, or serve the request of a port on an idle line. -/
theorem grant_cases (s : State) (p : Nat) :
    s.grant p = s ∨
    ∃ (q : Port) (r : Request), s.rst = false ∧ s.phase = .idle ∧ s.ports[p]? = some q ∧ q.pend = some r ∧
      s.grant p = s.serve p r := by
  unfold State.grant
  split
  · exact .inl rfl
  · rename_i h
    simp only [not_or, Bool.not_eq_true, not_not] at h
    cases hp : s.pend p with
    | none => exact .inl rfl
    | some r =>
      obtain ⟨q, hq, hr⟩ := port_of_pend hp
      exact .inr ⟨q, r, h.1, h.2, hq, hr, rfl⟩

/-- A grant on an idle line serves the port's request. -/
theorem grant_eq {s : State} {p : Nat} {q : Port} {r : Request} (hr : s.rst = false) (hi : s.phase = .idle)
    (hq : s.ports[p]? = some q) (hp : q.pend = some r) : s.grant p = s.serve p r := by
  simp [State.grant, hr, hi, pend_eq hq, hp]

/-- When the arbiter's timed step is enabled. -/
theorem phaseEndEnabled_iff (s : State) :
    s.phaseEndEnabled = true ↔ s.rst = false ∧ s.phase ≠ .idle ∧ s.deadline ≤ s.now := by
  simp [State.phaseEndEnabled, and_assoc]

/-- All that the end of a phase can do: nothing, or one of the three ends, each not before its deadline. -/
theorem phaseEnd_cases (P : Config.Params) (s : State) :
    s.phaseEnd P = s ∨
    (s.rst = false ∧ s.deadline ≤ s.now ∧
      ((s.phase = .txSettle ∧ s.phaseEnd P = s.endTxSettle P) ∨
        (s.phase = .txData ∧ s.phaseEnd P = s.endTxData) ∨
        (s.phase = .rxSettle ∧ s.phaseEnd P = s.endRxSettle))) := by
  unfold State.phaseEnd
  split
  · rename_i h
    obtain ⟨hr, -, hd⟩ := (phaseEndEnabled_iff s).1 h
    cases hp : s.phase
    · exact .inl rfl
    · exact .inr ⟨hr, hd, .inl ⟨rfl, rfl⟩⟩
    · exact .inr ⟨hr, hd, .inr (.inl ⟨rfl, rfl⟩)⟩
    · exact .inr ⟨hr, hd, .inr (.inr ⟨rfl, rfl⟩)⟩
  · exact .inl rfl

/-- An enabled phase end, by phase. -/
theorem phaseEnd_txSettle {P : Config.Params} {s : State} (hr : s.rst = false) (hp : s.phase = .txSettle)
    (hd : s.deadline ≤ s.now) : s.phaseEnd P = s.endTxSettle P := by
  simp [State.phaseEnd, State.phaseEndEnabled, hr, hp, hd]

theorem phaseEnd_txData {P : Config.Params} {s : State} (hr : s.rst = false) (hp : s.phase = .txData)
    (hd : s.deadline ≤ s.now) : s.phaseEnd P = s.endTxData := by
  simp [State.phaseEnd, State.phaseEndEnabled, hr, hp, hd]

theorem phaseEnd_rxSettle {P : Config.Params} {s : State} (hr : s.rst = false) (hp : s.phase = .rxSettle)
    (hd : s.deadline ≤ s.now) : s.phaseEnd P = s.endRxSettle := by
  simp [State.phaseEnd, State.phaseEndEnabled, hr, hp, hd]

/-! ## The line -/

/-- All that a received byte can do: it is appended, or dropped with RX_OVF set. -/
theorem rxAccept_cases (P : Config.Params) (s : State) (v : Byte) :
    (s.rxfifo.length < P.rxFifoDepth ∧ s.rxAccept P v = { s with rxfifo := s.rxfifo ++ [v] }) ∨
    (P.rxFifoDepth ≤ s.rxfifo.length ∧ s.rxAccept P v = { s with rxOvf := true }) := by
  unfold State.rxAccept
  split
  · exact .inl ⟨‹_›, rfl⟩
  · exact .inr ⟨by omega, rfl⟩

/-- All that a stop bit of the peer can do: nothing when there was no byte; else the byte is over, and nothing is received,
or one byte is, which takes RXE = 1 and no reset. -/
theorem lineStop_cases (P : Config.Params) (s : State) (v : Byte) (framing : Bool) (drawn : Option Byte) :
    s.lineStop P v framing drawn = s ∨
    s.lineStop P v framing drawn = { s with lineByte := none } ∨
    ∃ x, s.rst = false ∧ s.phase.rxe = true ∧
      s.lineStop P v framing drawn = ({ s with lineByte := none } : State).rxAccept P x := by
  unfold State.lineStop
  cases s.lineByte with
  | none => exact .inl rfl
  | some w =>
    dsimp only
    split
    · exact .inr (.inl rfl)
    · rename_i h
      cases hx : received w v framing drawn with
      | none => exact .inr (.inl rfl)
      | some x =>
        simp only [Bool.or_eq_true, not_or, Bool.not_eq_true, State.rxe, Bool.not_eq_eq_eq_not] at h
        exact .inr (.inr ⟨x, h.1, by simpa [h.1] using h.2, rfl⟩)

/-! ## The ports -/

/-- All that the fetch of a command can be. -/
theorem fetch_eq_some {s u : State} {p : Nat} {i : Instr} (h : s.fetch p = some (i, u)) :
    ∃ (q : Port) (rest : Bytes), s.rst = false ∧ s.ports[p]? = some q ∧ q.cmd = none ∧
      decode q.inbuf = .ok (i, rest) ∧
      u = { s with cur := p, ports := s.ports.set p { q with inbuf := rest, cmd := some i } } := by
  unfold State.fetch at h
  split at h
  · cases h
  · rename_i hr
    cases hq : s.ports[p]? with
    | none => simp [hq] at h
    | some q =>
      cases hc : q.cmd with
      | some j => simp [hq, hc] at h
      | none =>
        cases hd : decode q.inbuf with
        | error e => simp [hq, hc, hd] at h
        | ok r =>
          simp only [hq, hc, hd, Option.some.injEq, Prod.mk.injEq] at h
          obtain ⟨rfl, rfl⟩ := h
          exact ⟨q, r.2, by simpa using hr, rfl, hc, hd, rfl⟩

/-- The port that is served after a fetch is there. -/
theorem fetch_port {s u : State} {p : Nat} {i : Instr} (h : s.fetch p = some (i, u)) :
    ∃ q, u.ports[u.cur]? = some q ∧ q.cmd = some i := by
  obtain ⟨q, rest, -, hq, -, -, rfl⟩ := fetch_eq_some h
  have hp : p < s.ports.length := (List.getElem?_eq_some_iff.1 hq).1
  exact ⟨{ q with inbuf := rest, cmd := some i }, by simp [hp], rfl⟩

/-- All that a host's supply of bytes can do: nothing, under RST or where there is no such port; else the port's bytes
grow by them. -/
theorem hostBytes_cases (s : State) (p : Nat) (bs : Bytes) :
    (s.hostBytes p bs = s ∧ (s.rst = true ∨ s.ports[p]? = none)) ∨
    ∃ q : Port, s.rst = false ∧ s.ports[p]? = some q ∧
      s.hostBytes p bs = { s with ports := s.ports.set p { q with inbuf := q.inbuf ++ bs } } := by
  unfold State.hostBytes
  split
  · exact .inl ⟨rfl, .inl ‹_›⟩
  · rename_i hr
    cases hq : s.ports[p]? with
    | none => exact .inl ⟨by simp [State.modPort, List.modify_eq_self (List.getElem?_eq_none_iff.1 hq)], .inr rfl⟩
    | some q => exact .inr ⟨q, by simpa using hr, rfl, by simp only [State.modPort, modify_eq_set hq]⟩

/-! ## The reset input -/

/-- No byte is cut that has ended. -/
theorem cutWire_eq_self {t : Rat} {l : List WireByte} (h : ∀ b ∈ l, b.stop ≤ t) : cutWire t l = l := by
  induction l with
  | nil => rfl
  | cons b bs ih => simp [cutWire, h b, ih fun c hc => h c (List.mem_cons_of_mem b hc)]

/-- All that asserting RST can do: nothing, when it is asserted already; else the step of R300. -/
theorem rstAssert_cases (s : State) :
    (s.rst = true ∧ s.rstAssert = s) ∨
    (s.rst = false ∧ s.rstAssert =
      { s with
        rst := true
        wire := cutWire s.now s.wire
        edges := if s.phase.txe then s.edges ++ edgesToReceive s.now else s.edges
        lineByte := s.lineByte.map (fun _ => .late) }) := by
  unfold State.rstAssert
  split
  · exact .inl ⟨‹_›, rfl⟩
  · exact .inr ⟨by simpa using ‹¬s.rst = true›, rfl⟩

/-! ## Runs -/

/-- The first step of a run. -/
theorem runEvents_cons {P : Config.Params} {e : Event} {s t : State} (h : agentStep P e s = .next t) (es : List Event) :
    runEvents P (e :: es) s = runEvents P es t := by simp only [runEvents, h]

/-- One more step of a stream. -/
theorem follow_succ {P : Config.Params} {ev : Nat → Event} {s t : State} {n : Nat}
    (h : agentStep P (ev n) (follow P ev s n) = .next t) : follow P ev s (n + 1) = t := by simp only [follow, h]

end Sys2Proof.Machine
end

