-- ==== Sys2Proof/Laws/Bytes.lean ====
section
/-! SUPPORT. Byte strings: the big-endian readings and writings, slices, and the header a command is encoded with. -/

namespace Sys2Proof

@[simp] theorem beBytes_length (n v : Nat) : (beBytes n v).length = n := by
  induction n with
  | zero => rfl
  | succ n ih => simp [beBytes, ih]

@[simp] theorem u16be_length (v : Half) : (u16be v).length = 2 := beBytes_length 2 _

@[simp] theorem u32be_length (v : Word) : (u32be v).length = 4 := beBytes_length 4 _

/-- The two bytes of a big-endian half are its high and its low byte. -/
theorem u16be_eq (v : Half) : u16be v = [v.extractLsb' 8 8, v.extractLsb' 0 8] := by
  simp only [u16be, beBytes, List.cons.injEq, and_true]
  constructor <;> apply BitVec.eq_of_toNat_eq <;>
    simp [BitVec.extractLsb'_toNat, Nat.shiftRight_eq_div_pow]

/-- The four bytes of a big-endian word, the highest first. -/
theorem u32be_eq (v : Word) :
    u32be v = [v.extractLsb' 24 8, v.extractLsb' 16 8, v.extractLsb' 8 8, v.extractLsb' 0 8] := by
  simp only [u32be, beBytes, List.cons.injEq, and_true]
  refine ⟨?_, ?_, ?_, ?_⟩ <;> apply BitVec.eq_of_toNat_eq <;>
    simp [BitVec.extractLsb'_toNat, Nat.shiftRight_eq_div_pow]

@[simp] theorem be_nil : be [] = 0 := rfl

/-- A two-byte number. -/
theorem be_pair (h l : Byte) : be [h, l] = h.toNat * 256 + l.toNat := by simp [be]

/-- A four-byte number. -/
theorem be_quad (a b c d : Byte) :
    be [a, b, c, d] = ((a.toNat * 256 + b.toNat) * 256 + c.toNat) * 256 + d.toNat := by simp [be]

/-- Two bytes side by side are their big-endian number. -/
theorem append_toNat (h l : Byte) : (h ++ l : Half).toNat = h.toNat * 256 + l.toNat := by
  have := l.isLt
  rw [BitVec.toNat_append, ← Nat.shiftLeft_add_eq_or_of_lt this, Nat.shiftLeft_eq]

/-- Reading back a big-endian half. -/
theorem be_u16be (v : Half) : be (u16be v) = v.toNat := by
  have := v.isLt
  simp only [u16be, beBytes, be_pair, BitVec.toNat_ofNat]
  omega

/-- Reading back a big-endian word. -/
theorem be_u32be (v : Word) : be (u32be v) = v.toNat := by
  have := v.isLt
  simp only [u32be, beBytes, be_quad, BitVec.toNat_ofNat]
  omega

/-- The header's LEN as the decoder reads it. -/
theorem half_of_u16be (v : Half) : (v.extractLsb' 8 8 ++ v.extractLsb' 0 8 : Half) = v := by
  apply BitVec.eq_of_toNat_eq
  have := v.isLt
  rw [append_toNat]
  simp only [BitVec.extractLsb'_toNat, Nat.shiftRight_eq_div_pow]
  omega

@[simp] theorem slice_length (s : Bytes) (i j : Nat) : (slice s i j).length = min (j + 1 - i) (s.length - i) := by
  simp [slice]

@[simp] theorem header_length (i : Instr) : i.header.length = 4 := by simp [Instr.header]

/-- A command is its header and its operand bytes. -/
theorem encode_length (i : Instr) : (encode i).length = 4 + i.din.length := by simp [encode]

/-- The first two bytes of a command. -/
theorem encode_head (i : Instr) : encode i = i.opcode :: i.argByte :: (u16be i.lenField ++ i.din) := by
  simp [encode, Instr.header]

end Sys2Proof
end

