-- ==== Sys2Proof/Laws/Exec.lean ====
section
/-! SUPPORT. All that a command can do when it is executed, said once over the sixteen meanings. -/

namespace Sys2Proof.Machine

/-- The next state of a command of port `cur`, whose record is `q`, that is answered at once: the answer alone; the
answer and the accumulator, a parser buffer, or the overflow flag. -/
inductive Ends (s : State) (q : Port) : State → Prop where
  | plain (resp : Response) : Ends s q (s.ended { q with cmd := none } resp)
  | crc (c aux : Byte) : Ends s q (s.ended { q with crc := c, cmd := none } ⟨.ok, aux, []⟩)
  | pbuf (i : ParserId) (b : Bytes) (aux : Byte) (dout : Bytes) :
      Ends s q ((s.setPbuf i b).ended { q with cmd := none } ⟨.ok, aux, dout⟩)
  | status (v : Word) : Ends s q ((s.writeStatus v).ended { q with cmd := none } ⟨.ok, 0x00, []⟩)

theorem raise_ends {s : State} {q : Port} (h : s.ports[s.cur]? = some q) (e : Status) :
    ∃ t, raise e s = .next t ∧ Ends s q t := ⟨_, raise_eq h e, .plain _⟩

theorem respond_ends {s : State} {q : Port} (h : s.ports[s.cur]? = some q) (st : Status) (aux : Byte) (dout : Bytes) :
    ∃ t, respond st aux dout s = .next t ∧ Ends s q t := ⟨_, respond_eq h st aux dout, .plain _⟩

theorem execNop_ends {s : State} {q : Port} (h : s.ports[s.cur]? = some q) (arg : Byte) (din : Bytes) :
    ∃ t, execNop arg din s = .next t ∧ Ends s q t := by
  unfold execNop; split
  · exact raise_ends h _
  · exact respond_ends h _ _ _

theorem execCrcClear_ends {s : State} {q : Port} (h : s.ports[s.cur]? = some q) (arg : Byte) (din : Bytes) :
    ∃ t, execCrcClear arg din s = .next t ∧ Ends s q t := by
  unfold execCrcClear; split
  · exact raise_ends h _
  · exact ⟨_, respond_setCurCrc h _ _ _ _, .crc _ _⟩

theorem execCrcFeed_ends {s : State} {q : Port} (h : s.ports[s.cur]? = some q) (arg : Byte) (din : Bytes) :
    ∃ t, execCrcFeed arg din s = .next t ∧ Ends s q t := by
  unfold execCrcFeed; split
  · exact raise_ends h _
  · exact ⟨_, respond_setCurCrc h _ _ _ _, .crc _ _⟩

theorem execCrcRead_ends {s : State} {q : Port} (h : s.ports[s.cur]? = some q) (arg : Byte) (din : Bytes) :
    ∃ t, execCrcRead arg din s = .next t ∧ Ends s q t := by
  unfold execCrcRead; split
  · exact raise_ends h _
  · exact respond_ends h _ _ _

theorem execFrameEncode_ends {s : State} {q : Port} (h : s.ports[s.cur]? = some q) (arg : Byte) (din : Bytes) :
    ∃ t, execFrameEncode arg din s = .next t ∧ Ends s q t := by
  unfold execFrameEncode; split
  · exact raise_ends h _
  · split
    · exact raise_ends h _
    · exact respond_ends h _ _ _

theorem execFrameDecode_ends {s : State} {q : Port} (h : s.ports[s.cur]? = some q) (arg : Byte) (din : Bytes) :
    ∃ t, execFrameDecode arg din s = .next t ∧ Ends s q t := by
  unfold execFrameDecode; split
  · exact raise_ends h _
  · split
    · exact raise_ends h _
    · exact respond_ends h _ _ _

theorem execParserPush_ends {s : State} {q : Port} (h : s.ports[s.cur]? = some q) (arg : Byte) (din : Bytes) :
    ∃ t, execParserPush arg din s = .next t ∧ Ends s q t := by
  unfold execParserPush; split
  · exact raise_ends h _
  · split
    · exact raise_ends h _
    · exact ⟨_, respond_setPbuf h _ _ _ _ _, .pbuf _ _ _ _⟩

theorem execParserReset_ends {s : State} {q : Port} (h : s.ports[s.cur]? = some q) (arg : Byte) (din : Bytes) :
    ∃ t, execParserReset arg din s = .next t ∧ Ends s q t := by
  unfold execParserReset; split
  · exact raise_ends h _
  · split
    · exact raise_ends h _
    · exact ⟨_, respond_setPbuf h _ _ _ _ _, .pbuf _ _ _ _⟩

theorem execParserLevel_ends {s : State} {q : Port} (h : s.ports[s.cur]? = some q) (arg : Byte) (din : Bytes) :
    ∃ t, execParserLevel arg din s = .next t ∧ Ends s q t := by
  unfold execParserLevel; split
  · exact raise_ends h _
  · split
    · exact raise_ends h _
    · exact respond_ends h _ _ _

theorem execEnvEncode_ends {s : State} {q : Port} (h : s.ports[s.cur]? = some q) (arg : Byte) (din : Bytes) :
    ∃ t, execEnvEncode arg din s = .next t ∧ Ends s q t := by
  unfold execEnvEncode; split
  · exact raise_ends h _
  · split
    · exact raise_ends h _
    · split
      · exact raise_ends h _
      · exact respond_ends h _ _ _

theorem execEnvDecode_ends {s : State} {q : Port} (h : s.ports[s.cur]? = some q) (arg : Byte) (din : Bytes) :
    ∃ t, execEnvDecode arg din s = .next t ∧ Ends s q t := by
  unfold execEnvDecode; split
  · exact raise_ends h _
  · split
    · exact raise_ends h _
    · exact respond_ends h _ _ _

theorem execCfgRead_ends {s : State} {q : Port} (h : s.ports[s.cur]? = some q) (arg : Byte) (din : Bytes) :
    ∃ t, execCfgRead arg din s = .next t ∧ Ends s q t := by
  unfold execCfgRead; split
  · exact raise_ends h _
  · split
    · exact raise_ends h _
    · exact respond_ends h _ _ _

theorem execXcvrSend_cases {s : State} {q : Port} (h : s.ports[s.cur]? = some q) (arg : Byte) (din : Bytes) :
    (∃ r, requestOf (.xcvrSend arg din) = some r ∧ execXcvrSend arg din s = .next (s.pendWith q r)) ∨
    (requestOf (.xcvrSend arg din) = none ∧ ∃ t, execXcvrSend arg din s = .next t ∧ Ends s q t) := by
  by_cases ha : arg = 0#8
  · exact .inl ⟨.send din, by simp [requestOf, ha], by simp [execXcvrSend, ha, request_eq h]⟩
  · exact .inr ⟨by simpa [requestOf] using ha, by simpa [execXcvrSend, ha] using raise_ends h _⟩

theorem execXcvrRecv_cases {s : State} {q : Port} (h : s.ports[s.cur]? = some q) (arg : Byte) (m : Half) :
    (∃ r, requestOf (.xcvrRecv arg m) = some r ∧ execXcvrRecv arg m s = .next (s.pendWith q r)) ∨
    (requestOf (.xcvrRecv arg m) = none ∧ ∃ t, execXcvrRecv arg m s = .next t ∧ Ends s q t) := by
  by_cases ha : arg = 0#8
  · exact .inl ⟨.recv m, by simp [requestOf, ha], by simp [execXcvrRecv, ha, request_eq h]⟩
  · exact .inr ⟨by simpa [requestOf] using ha, by simpa [execXcvrRecv, ha] using raise_ends h _⟩

theorem writeStatus_ends {s : State} {q : Port} (h : s.ports[s.cur]? = some q) (v : Word) :
    ∃ t, respond .ok 0x00 [] (s.writeStatus v) = .next t ∧ Ends s q t :=
  ⟨_, respond_eq (s := s.writeStatus v) h _ _ _, .status v⟩

theorem execCfgWrite_cases {s : State} {q : Port} (h : s.ports[s.cur]? = some q) (arg : Byte) (din : Bytes) :
    (∃ r, requestOf (.cfgWrite arg din) = some r ∧ execCfgWrite arg din s = .next (s.pendWith q r)) ∨
    (requestOf (.cfgWrite arg din) = none ∧ ∃ t, execCfgWrite arg din s = .next t ∧ Ends s q t) := by
  by_cases hl : din.length = 4
  · by_cases h0 : arg = 0#8
    · exact .inl ⟨.cfgw .ctrl (wordOperand din), by simp [requestOf, hl, h0],
        by simp [execCfgWrite, regArg, hl, h0, request_eq h]⟩
    · by_cases h1 : arg = 1#8
      · by_cases hv : wordOperand din = 0#32
        · exact .inr ⟨by simp [requestOf, hl, h1, hv],
            by simpa [execCfgWrite, regArg, hl, h1, hv] using raise_ends h _⟩
        · exact .inl ⟨.cfgw .baud (wordOperand din), by simp [requestOf, hl, h1, hv],
            by simp [execCfgWrite, regArg, hl, h1, hv, request_eq h]⟩
      · by_cases h2 : arg = 2#8
        · exact .inl ⟨.cfgw .settleUs (wordOperand din), by simp [requestOf, hl, h2],
            by simp [execCfgWrite, regArg, hl, h2, request_eq h]⟩
        · refine .inr ⟨by simp [requestOf, hl, h0, h1, h2], ?_⟩
          by_cases h3 : arg = 3#8
          · simpa [execCfgWrite, regArg, hl, h3] using writeStatus_ends h _
          · simpa [execCfgWrite, regArg, h0, h1, h2, h3] using raise_ends h _
  · refine .inr ⟨by simp [requestOf, hl], ?_⟩
    unfold execCfgWrite; split
    · exact raise_ends h _
    · simpa [hl] using raise_ends h _

/-- Every command of a port that is there makes its line request and holds, or is answered at once. -/
theorem exec_cases (i : Instr) {s : State} {q : Port} (h : s.ports[s.cur]? = some q) :
    (∃ r, requestOf i = some r ∧ exec i s = .next (s.pendWith q r)) ∨
    (requestOf i = none ∧ ∃ t, exec i s = .next t ∧ Ends s q t) := by
  cases i with
  | nop a d => exact .inr ⟨rfl, execNop_ends h a d⟩
  | crcClear a d => exact .inr ⟨rfl, execCrcClear_ends h a d⟩
  | crcFeed a d => exact .inr ⟨rfl, execCrcFeed_ends h a d⟩
  | crcRead a d => exact .inr ⟨rfl, execCrcRead_ends h a d⟩
  | frameEncode a d => exact .inr ⟨rfl, execFrameEncode_ends h a d⟩
  | frameDecode a d => exact .inr ⟨rfl, execFrameDecode_ends h a d⟩
  | parserPush a d => exact .inr ⟨rfl, execParserPush_ends h a d⟩
  | parserReset a d => exact .inr ⟨rfl, execParserReset_ends h a d⟩
  | parserLevel a d => exact .inr ⟨rfl, execParserLevel_ends h a d⟩
  | envEncode a d => exact .inr ⟨rfl, execEnvEncode_ends h a d⟩
  | envDecode a d => exact .inr ⟨rfl, execEnvDecode_ends h a d⟩
  | xcvrSend a d => exact execXcvrSend_cases h a d
  | xcvrRecv a m => exact execXcvrRecv_cases h a m
  | cfgRead a d => exact .inr ⟨rfl, execCfgRead_ends h a d⟩
  | cfgWrite a d => exact execCfgWrite_cases h a d
  | reserved o a d => exact .inr ⟨rfl, raise_ends h _⟩

end Sys2Proof.Machine
end

