-- ==== Sys2Proof/Laws/Parser.lean ====
section
/-! SUPPORT. The stream parser's loop pass by pass: more passes than bytes change nothing, so `parserScan` unfolds. -/

namespace Sys2Proof.Machine

theorem isSync_iff (b : Byte) : isSync b = true ↔ b ∈ Config.syncSet := by simp [isSync]

theorem isPtype_iff (t : Byte) : isPtype t = true ↔ t ∈ Config.ptypes := by simp [isPtype]

theorem isExt_iff (t : Byte) : isExt t = true ↔ 0x28 ≤ t.toNat := by simp [isExt]

/-- What is left after the garbage is no longer than what was there. -/
theorem length_dropWhile_le' (p : Byte → Bool) (b : Bytes) : (b.dropWhile p).length ≤ b.length :=
  (List.dropWhile_suffix p).length_le

/-- Passes beyond one more than the bytes change nothing. -/
theorem parserLoop_fuel (n m : Nat) (b : Bytes) (hn : b.length < n) (hm : b.length < m) :
    parserLoop n b = parserLoop m b := by
  induction n generalizing m b with
  | zero => omega
  | succ n ih =>
    cases m with
    | zero => omega
    | succ m =>
      have hd := length_dropWhile_le' (fun x => !isSync x) b
      simp only [parserLoop]
      split
      · rfl
      · rfl
      · rename_i x l rest heq
        rw [heq] at hd
        simp only [List.length_cons] at hd
        have h1 : parserLoop n (l :: rest) = parserLoop m (l :: rest) :=
          ih m _ (by simp only [List.length_cons]; omega) (by simp only [List.length_cons]; omega)
        have h2 : parserLoop n (rest.drop l.toNat) = parserLoop m (rest.drop l.toNat) :=
          ih m _ (by simp only [List.length_drop]; omega) (by simp only [List.length_drop]; omega)
        simp only [h1, h2]

/-- One pass of the loop, as an equation of `parserScan`. -/
theorem parserScan_eq (b : Bytes) :
    parserScan b =
      match b.dropWhile (fun x => !isSync x) with
      | [] => ⟨[], [], 0⟩
      | [x] => ⟨[x], [], 0⟩
      | x :: l :: rest =>
        if l.toNat < Config.lenMin ∨ Config.lenMax < l.toNat then parserScan (l :: rest)
        else if rest.length < l.toNat then ⟨x :: l :: rest, [], 0⟩
        else
          let r := parserScan (rest.drop l.toNat)
          if frameValid (x :: l :: rest.take l.toNat) then ⟨r.buf, x :: l :: rest.take l.toNat ++ r.out, r.nf + 1⟩
          else r := by
  have hd := length_dropWhile_le' (fun x => !isSync x) b
  rw [parserScan, parserLoop]
  generalize b.dropWhile (fun x => !isSync x) = d at hd ⊢
  match d, hd with
  | [], _ => rfl
  | [x], _ => rfl
  | x :: l :: rest, hd =>
    simp only [List.length_cons] at hd
    have h1 : parserLoop b.length (l :: rest) = parserScan (l :: rest) :=
      parserLoop_fuel _ _ _ (by simp only [List.length_cons]; omega) (by omega)
    have h2 : parserLoop b.length (rest.drop l.toNat) = parserScan (rest.drop l.toNat) :=
      parserLoop_fuel _ _ _ (by simp only [List.length_drop]; omega) (by omega)
    simp only [h1, h2]

theorem parserPush_nil (buf : Bytes) : parserPush buf [] = parserScan buf := by simp [parserPush]

end Sys2Proof.Machine
end

