-- ==== Sys2Proof/Laws/PerInstr.lean ====
section
/-! SUPPORT. Statements made of every instruction, one lemma each. `Fields`: what the fields of an encoding say, as the
decoder will read them: OPC tells the instruction apart, and LEN announces just the operand bytes that follow. -/

namespace Sys2Proof.Laws.Fields

/-- The command that the OPC, ARG and LEN of `i` and its operand bytes make is `i`, and its header announces as many
operand bytes as it has. -/
def Statement (i : Instr) : Prop :=
  i.wf = true → ofHeader i.opcode i.argByte i.lenField i.din = i ∧ dinLen i.opcode i.lenField = i.din.length

/-- LEN counts the operand bytes when they are no more than 65535. -/
theorem lenField_toNat {d : Bytes} (h : d.length ≤ 65535) : (BitVec.ofNat 16 d.length).toNat = d.length := by
  simp only [BitVec.toNat_ofNat]; omega

/-- What well-formedness says of the operand bytes. -/
theorem din_le {i : Instr} (h : i.wf = true) : i.din.length ≤ 65535 := by
  simp only [Instr.wf, Bool.and_eq_true, Instr.dinOk, Config.lenFieldMax, decide_eq_true_eq] at h
  exact h.2

theorem nop (a : Byte) (d : Bytes) : Statement (.nop a d) := fun h => ⟨rfl, lenField_toNat (din_le h)⟩
theorem crcClear (a : Byte) (d : Bytes) : Statement (.crcClear a d) := fun h => ⟨rfl, lenField_toNat (din_le h)⟩
theorem crcFeed (a : Byte) (d : Bytes) : Statement (.crcFeed a d) := fun h => ⟨rfl, lenField_toNat (din_le h)⟩
theorem crcRead (a : Byte) (d : Bytes) : Statement (.crcRead a d) := fun h => ⟨rfl, lenField_toNat (din_le h)⟩
theorem frameEncode (a : Byte) (d : Bytes) : Statement (.frameEncode a d) :=
  fun h => ⟨rfl, lenField_toNat (din_le h)⟩
theorem frameDecode (a : Byte) (d : Bytes) : Statement (.frameDecode a d) :=
  fun h => ⟨rfl, lenField_toNat (din_le h)⟩
theorem parserPush (a : Byte) (d : Bytes) : Statement (.parserPush a d) := fun h => ⟨rfl, lenField_toNat (din_le h)⟩
theorem parserReset (a : Byte) (d : Bytes) : Statement (.parserReset a d) :=
  fun h => ⟨rfl, lenField_toNat (din_le h)⟩
theorem parserLevel (a : Byte) (d : Bytes) : Statement (.parserLevel a d) :=
  fun h => ⟨rfl, lenField_toNat (din_le h)⟩
theorem envEncode (a : Byte) (d : Bytes) : Statement (.envEncode a d) := fun h => ⟨rfl, lenField_toNat (din_le h)⟩
theorem envDecode (a : Byte) (d : Bytes) : Statement (.envDecode a d) := fun h => ⟨rfl, lenField_toNat (din_le h)⟩
theorem xcvrSend (a : Byte) (d : Bytes) : Statement (.xcvrSend a d) := fun h => ⟨rfl, lenField_toNat (din_le h)⟩
theorem xcvrRecv (a : Byte) (m : Half) : Statement (.xcvrRecv a m) := fun _ => ⟨rfl, rfl⟩
theorem cfgRead (a : Byte) (d : Bytes) : Statement (.cfgRead a d) := fun h => ⟨rfl, lenField_toNat (din_le h)⟩
theorem cfgWrite (a : Byte) (d : Bytes) : Statement (.cfgWrite a d) := fun h => ⟨rfl, lenField_toNat (din_le h)⟩

/-- A reserved command carries an OPC that is none of the opcode map's, and announces LEN operand bytes. -/
theorem reserved (o a : Byte) (d : Bytes) : Statement (.reserved o a d) := by
  intro h
  have hl := din_le h
  simp only [Instr.wf, Bool.and_eq_true] at h
  have ho : o ∉ definedOpcodes := by simpa [Instr.opcodeOk] using h.1
  simp only [definedOpcodes, List.mem_cons, List.not_mem_nil, or_false, not_or] at ho
  obtain ⟨h00, h10, h11, h12, h20, h21, h30, h31, h32, h40, h41, h50, h51, h60, h61⟩ := ho
  constructor
  · simp only [Instr.opcode, Instr.argByte, Instr.din]
    unfold ofHeader
    split <;> first | rfl | contradiction
  · exact (if_neg h51).trans (lenField_toNat hl)

end Sys2Proof.Laws.Fields
end

