-- ==== Sys2Proof/Machine/Asm.lean ====
section
/-! DEFINITION. The written form of commands and responses (spec/30_encoding.md R88). A command that R88 has no form
for (an ARG where the opcode takes none, a reserved opcode) has none here. -/

namespace Sys2Proof.Machine

/-- A hexadecimal digit. -/
def hexDigit (n : Nat) : String :=
  ["0", "1", "2", "3", "4", "5", "6", "7", "8", "9", "A", "B", "C", "D", "E", "F"].getD n "0"

/-- A byte as two hexadecimal digits (R88). -/
def hexByte (b : Byte) : String := hexDigit (b.toNat / 16) ++ hexDigit (b.toNat % 16)

/-- A bracketed list of bytes (R88). -/
def hexList (s : Bytes) : String :=
  "[" ++ (s.map hexByte).foldl (fun acc h => if acc = "" then h else acc ++ " " ++ h) "" ++ "]"

/-- A number below 65536 in decimal. -/
def decNumber (n : Nat) : String :=
  let d (k : Nat) : String := hexDigit (n / k % 10)
  if n < 10 then d 1
  else if n < 100 then d 10 ++ d 1
  else if n < 1000 then d 100 ++ d 10 ++ d 1
  else if n < 10000 then d 1000 ++ d 100 ++ d 10 ++ d 1
  else d 10000 ++ d 1000 ++ d 100 ++ d 10 ++ d 1

/-- A packet type by name, or as a number (R88). -/
def ptypeName (t : Byte) : String :=
  if t = 0x01 then "CRSF_DATA" else if t = 0x02 then "HEARTBEAT" else if t = 0x03 then "STATUS" else decNumber t.toNat

/-- A register index by name, or as a number (R88). -/
def regName (a : Byte) : String :=
  match regArg a with
  | some .ctrl => "CTRL"
  | some .baud => "BAUD"
  | some .settleUs => "SETTLE_US"
  | some .status => "STATUS"
  | none => decNumber a.toNat

/-- A command with no ARG and no operand bytes. -/
def asmBare (name : String) (arg : Byte) (din : Bytes) : Option String :=
  if arg = 0x00 then some (if din = [] then name else name ++ " " ++ hexList din) else none

/-- A command with operand bytes and no ARG. -/
def asmBytes (name : String) (arg : Byte) (din : Bytes) : Option String :=
  if arg = 0x00 then some (name ++ " " ++ hexList din) else none

/-- A command with an ARG and no operand bytes. -/
def asmArg (name arg : String) (din : Bytes) : Option String :=
  some (if din = [] then name ++ " " ++ arg else name ++ " " ++ arg ++ ", " ++ hexList din)

/-- A command with an ARG and operand bytes. -/
def asmArgBytes (name arg : String) (din : Bytes) : Option String := some (name ++ " " ++ arg ++ ", " ++ hexList din)

/-- The written form of a command (R88). -/
def asm : Instr → Option String
  | .nop a d => asmBare "NOP" a d
  | .crcClear a d => asmBare "CRC_CLEAR" a d
  | .crcFeed a d => asmBytes "CRC_FEED" a d
  | .crcRead a d => asmBare "CRC_READ" a d
  | .frameEncode a d => asmBytes "FRAME_ENCODE" a d
  | .frameDecode a d => asmBytes "FRAME_DECODE" a d
  | .parserPush a d => asmArgBytes "PARSER_PUSH" (decNumber a.toNat) d
  | .parserReset a d => asmArg "PARSER_RESET" (decNumber a.toNat) d
  | .parserLevel a d => asmArg "PARSER_LEVEL" (decNumber a.toNat) d
  | .envEncode a d => asmArgBytes "ENV_ENCODE" (ptypeName a) d
  | .envDecode a d => asmBytes "ENV_DECODE" a d
  | .xcvrSend a d => asmBytes "XCVR_SEND" a d
  | .xcvrRecv a m => if a = 0x00 then some ("XCVR_RECV " ++ decNumber m.toNat) else none
  | .cfgRead a d => asmArg "CFG_READ" (regName a) d
  | .cfgWrite a d => asmArgBytes "CFG_WRITE" (regName a) d
  | .reserved _ _ _ => none

/-- The name of a status code (spec/60_exceptions.md R270). -/
def Status.name : Status → String
  | .ok => "OK"
  | .eOpcode => "E_OPCODE"
  | .eArg => "E_ARG"
  | .eShort => "E_SHORT"
  | .eLenMismatch => "E_LEN_MISMATCH"
  | .eSync => "E_SYNC"
  | .eLenRange => "E_LEN_RANGE"
  | .eExtShort => "E_EXT_SHORT"
  | .eCrc => "E_CRC"
  | .eTooLong => "E_TOO_LONG"
  | .ePtype => "E_PTYPE"

/-- The written form of a response (R88). -/
def Response.asm (r : Response) : String :=
  "-> " ++ r.status.name ++ " aux=0x" ++ hexByte r.aux ++ " " ++ hexList r.dout

end Sys2Proof.Machine
end

