-- ==== Sys2Proof/Tests/Slice0.lean ====
section
/-! SUPPORT. Small tests, their expected results taken from spec/95_test_vectors.md (each names its vector), and for every
statement with hypotheses a concrete state and operands that meet them. -/

namespace Sys2Proof.Machine.Tests

/-! ## The states of the vectors -/

/-- Parameters of a small block: two ports, a FIFO of two bytes (T-RX-10), 10 bit times per byte, reset settle 100 µs. -/
def blockParams : Config.Params where
  nPorts := 2
  rxFifoDepth := 2
  baudReset := 115200
  settleReset := 100
  bitsPerByte := 10
  dirPins := .two

/-- The vectors' setting (2.7): IDLE at time 0, BAUD 420000, SETTLE 50, INVERT 0. -/
def idle : State :=
  { State.resetWith blockParams with phase := .idle, deadline := 0, baud := 420000, settleUs := 50 }

/-- F, dF, P, S4, ts and EF of the vectors. -/
def frameF : Bytes := [0xC8, 0x0C, 0x14, 0x50, 0x00, 0x5F, 0xFA, 0x01, 0x02, 0x14, 0x00, 0x5A, 0x06, 0x1E]
def fieldsF : Bytes := [0xC8, 0x14, 0x50, 0x00, 0x5F, 0xFA, 0x01, 0x02, 0x14, 0x00, 0x5A, 0x06]
def frameP : Bytes := [0xEE, 0x04, 0x28, 0x00, 0xEA, 0x54]
def frameS4 : Bytes := [0xC8, 0x02, 0x10, 0x52]
def stamp : Bytes := [0x00, 0x00, 0x01, 0x8C, 0x3A, 0x5B, 0x7D, 0x9F]
def envF : Bytes := [0x01] ++ stamp ++ [0x00, 0x0E] ++ frameF
def digits : Bytes := [0x31, 0x32, 0x33, 0x34, 0x35, 0x36, 0x37, 0x38, 0x39]

/-- The last answer of an outcome. -/
def said : Result → Option Response
  | .next t => t.answers.getLast?.map (·.resp)
  | .fault _ => none
  | .refused _ => none

/-- The state of an outcome, or the vectors' state where it is none. -/
def after : Result → State
  | .next t => t
  | .fault _ => idle
  | .refused _ => idle

/-- `idle` with port 0's record changed. -/
def withPort (q : Port) : State := { idle with ports := [q, Port.reset] }

/-! ## WellFormed: a term that each check refuses, and what it admits -/

theorem test_wf_refuses_reserved_with_a_defined_opcode :
    (Instr.reserved 0x51 0x00 []).opcodeOk = false ∧ (Instr.reserved 0x51 0x00 []).wf = false := by decide

theorem test_wf_refuses_operands_no_header_can_count {d : Bytes} (h : d.length = 65536) :
    (Instr.crcFeed 0x00 d).dinOk = false ∧ (Instr.crcFeed 0x00 d).wf = false := by
  simp [Instr.wf, Instr.dinOk, Instr.din, h]

theorem test_wf_admits_illegal_fields :
    (Instr.nop 0xFF [0xAA]).wf = true ∧ (Instr.reserved 0xFF 0x07 []).wf = true ∧
    (Instr.xcvrRecv 0x00 0xFFFF).wf = true := by decide

/-! ## Decode: a word of every constructor, written out from R71, R74 and R77 -/

theorem test_decode_nop : decode [0x00, 0x00, 0x00, 0x00] = .ok (.nop 0x00 [], []) := by decide
theorem test_decode_crcClear : decode [0x10, 0x00, 0x00, 0x01, 0xAA] = .ok (.crcClear 0x00 [0xAA], []) := by decide
theorem test_decode_crcFeed :
    decode ([0x11, 0x00, 0x00, 0x09] ++ digits) = .ok (.crcFeed 0x00 digits, []) := by decide
theorem test_decode_crcRead : decode [0x12, 0x01, 0x00, 0x00] = .ok (.crcRead 0x01 [], []) := by decide
theorem test_decode_frameEncode :
    decode ([0x20, 0x00, 0x00, 0x0C] ++ fieldsF) = .ok (.frameEncode 0x00 fieldsF, []) := by decide
theorem test_decode_frameDecode :
    decode ([0x21, 0x00, 0x00, 0x0E] ++ frameF) = .ok (.frameDecode 0x00 frameF, []) := by decide
theorem test_decode_parserPush :
    decode [0x30, 0x01, 0x00, 0x01, 0x0C, 0xFF] = .ok (.parserPush 0x01 [0x0C], [0xFF]) := by decide
theorem test_decode_parserReset : decode [0x31, 0x01, 0x00, 0x00] = .ok (.parserReset 0x01 [], []) := by decide
theorem test_decode_parserLevel : decode [0x32, 0x01, 0x00, 0x00] = .ok (.parserLevel 0x01 [], []) := by decide
theorem test_decode_envEncode :
    decode ([0x40, 0x02, 0x00, 0x08] ++ stamp) = .ok (.envEncode 0x02 stamp, []) := by decide
theorem test_decode_envDecode :
    decode ([0x41, 0x00, 0x00, 0x19] ++ envF) = .ok (.envDecode 0x00 envF, []) := by decide
theorem test_decode_xcvrSend :
    decode ([0x50, 0x01, 0x00, 0x04] ++ frameS4) = .ok (.xcvrSend 0x01 frameS4, []) := by decide
/-- T-OPC-05: the LEN of `XCVR_RECV` is a count, and the next byte is a header. -/
theorem test_decode_xcvrRecv :
    decode [0x51, 0x00, 0x01, 0x05, 0x00] = .ok (.xcvrRecv 0x00 0x0105, [0x00]) := by decide
theorem test_decode_cfgRead : decode [0x60, 0x03, 0x00, 0x00] = .ok (.cfgRead 0x03 [], []) := by decide
theorem test_decode_cfgWrite :
    decode [0x61, 0x01, 0x00, 0x04, 0x00, 0x06, 0x68, 0xA0] = .ok (.cfgWrite 0x01 [0x00, 0x06, 0x68, 0xA0], []) := by
  decide
/-- T-OPC-01 and T-OPC-06: a reserved opcode of each range. -/
theorem test_decode_reserved :
    decode [0x13, 0x00, 0x00, 0x02, 0xAA, 0xBB, 0x00] = .ok (.reserved 0x13 0x00 [0xAA, 0xBB], [0x00]) ∧
    ([0x01, 0x0F, 0x1F, 0x22, 0x33, 0x42, 0x52, 0x62, 0xFF] : Bytes).all
      (fun o => decide (decode [o, 0x07, 0x00, 0x01, 0xC8] = .ok (.reserved o 0x07 [0xC8], []))) = true := by decide
/-- T-OPC-07: the port holds for the last operand byte. -/
theorem test_decode_holds :
    decode [0x20, 0x00, 0x00, 0x02, 0xC9] = .error (.operandsIncomplete 2 1) ∧
    decode [0x20, 0x00, 0x00] = .error (.headerIncomplete 3) := by decide

/-- The table's numbering: OPC is bits 31 to 24. -/
theorem test_table_word :
    decodeTableWord 32 0x31010000 = some (.parserReset 0x01 []) ∧
    decodeTableWord 32 0x11000002 = some (.crcFeed 0x00 [0x00, 0x00]) := by decide

/-- The word supplied is the first command a reset block answers (T-RST-01: CRC_READ gives 0x00). -/
theorem test_step_runs_the_word :
    said (step (State.reset.withFetchWord 32 0x12000000)) = some ⟨.ok, 0x00, []⟩ ∧
    said (step (State.reset.withFetchWord 32 0xFF000000)) = some (Response.error .eOpcode) := by decide

/-! ## The commands (at most two tests each) -/

/-- T-NOP-01, T-NOP-03. -/
theorem test_nop :
    said (exec (.nop 0x00 []) idle) = some ⟨.ok, 0x00, []⟩ ∧
    said (exec (.nop 0x00 [0xAA]) idle) = some (Response.error .eArg) := by decide

/-- T-OPC-04: ARG and LEN are never checked. -/
theorem test_reserved : said (exec (.reserved 0x22 0x07 [0xC8]) idle) = some (Response.error .eOpcode) := by decide

/-- T-CRCC-06, T-CRCC-07. -/
theorem test_crcClear :
    (after (exec (.crcClear 0x00 []) (withPort { Port.reset with crc := 0xBC }))).ports[0]? = some Port.reset ∧
    said (exec (.crcClear 0x00 [0xAA]) idle) = some (Response.error .eArg) := by decide

/-- T-CRCC-01. -/
theorem test_crcFeed : said (exec (.crcFeed 0x00 digits) idle) = some ⟨.ok, 0xBC, []⟩ := by decide +kernel

/-- T-CRCC-03: the residue, from a port's own accumulator. -/
theorem test_crcFeed_residue :
    (after (exec (.crcFeed 0x00 [0xBC]) (withPort { Port.reset with crc := 0xBC }))).ports[0]? = some Port.reset := by
  decide +kernel

/-- T-CRCC-02, T-CRCC-08. -/
theorem test_crcRead :
    said (exec (.crcRead 0x00 []) (withPort { Port.reset with crc := 0xBC })) = some ⟨.ok, 0xBC, []⟩ ∧
    said (exec (.crcRead 0x01 []) idle) = some (Response.error .eArg) := by decide

/-- T-CRC-03, -04, -05, -06, and the last row of T-CRC-TABLE. -/
theorem test_crc8 :
    ([[0x01], [0x80], [0xFF], [0xD5]] : List Bytes).map crc8 = [0xD5, 0xEF, 0xF9, 0x0B] ∧
    ([0xF0, 0xF1, 0xF2, 0xF3, 0xF4, 0xF5, 0xF6, 0xF7, 0xF8, 0xF9, 0xFA, 0xFB, 0xFC, 0xFD, 0xFE, 0xFF] : Bytes).map
      (crc8Step 0x00) =
      [0x84, 0x51, 0xFB, 0x2E, 0x7A, 0xAF, 0x05, 0xD0, 0xAD, 0x78, 0xD2, 0x07, 0x53, 0x86, 0x2C, 0xF9] := by
  decide +kernel

/-- T-ENC-01, T-ENC-02, T-ENC-04, T-ENC-08. -/
theorem test_frameEncode :
    frameEncode fieldsF = .ok frameF ∧ frameEncode [0xEE, 0x28, 0x00, 0xEA] = .ok frameP ∧
    frameEncode [0xEA, 0x27] = .ok [0xEA, 0x02, 0x27, 0xF0] ∧
    frameEncode [0xC8, 0xFF, 0x01, 0x02] = .ok [0xC8, 0x04, 0xFF, 0x01, 0x02, 0x36] := by decide +kernel

/-- T-ENC-11, -12, -15, -16, -18: each check, and their order. -/
theorem test_frameEncode_errors :
    frameEncode (0xC8 :: List.replicate 62 0x00) = .error .eTooLong ∧
    frameEncode [0xC8, 0x28, 0x00] = .error .eExtShort ∧ frameEncode [0x00, 0x28] = .error .eSync ∧
    frameEncode [0xC8] = .error .eShort ∧
    said (exec (.frameEncode 0x01 [0xC8, 0x10]) idle) = some (Response.error .eArg) := by decide +kernel

/-- T-DEC-01, T-DEC-15, T-DEC-16. -/
theorem test_frameDecode :
    said (exec (.frameDecode 0x00 frameF) idle) = some ⟨.ok, 0x00, fieldsF⟩ ∧
    said (exec (.frameDecode 0x00 frameP) idle) = some ⟨.ok, 0x01, [0xEE, 0x28, 0x00, 0xEA]⟩ ∧
    said (exec (.frameDecode 0x00 frameS4) idle) = some ⟨.ok, 0x00, [0xC8, 0x10]⟩ := by decide +kernel

/-- T-DEC-06, -09, -12, -13, -14, -14b, -18: each check, and their order. -/
theorem test_frameDecode_errors :
    frameDecode [0xC9, 0x05, 0x00] = .error .eShort ∧ frameDecode [0x00, 0x05, 0x00, 0x00] = .error .eLenMismatch ∧
    frameDecode [0xC9, 0x02, 0x10, 0x52] = .error .eSync ∧
    frameDecode (0xC8 :: 0x3F :: List.replicate 63 0x00) = .error .eLenRange ∧
    frameDecode [0xC8, 0x02, 0x28, 0x8D] = .error .eExtShort ∧
    frameDecode [0xC8, 0x03, 0x30, 0x01, 0xD0] = .error .eExtShort ∧
    frameDecode [0xC8, 0x02, 0x10, 0x00] = .error .eCrc := by decide +kernel

/-- T-PARSE-03, -07, -12, -17: noise, a false sync that costs a frame, a short extended slice, lone syncs. -/
theorem test_parserPush :
    parserPush [] ([0x00, 0x11, 0x22] ++ frameF) = ⟨[], frameF, 1⟩ ∧
    parserPush [] ([0xC8, 0x05] ++ frameF) = ⟨[], [], 0⟩ ∧
    parserPush [] ([0xC8, 0x02, 0x28, 0x8D] ++ frameP) = ⟨[], frameP, 1⟩ ∧
    parserPush [] [0xEE, 0xEE, 0xEE] = ⟨[0xEE], [], 0⟩ := by decide +kernel

/-- T-PCMD-07: the instances are separate, and an all-noise chunk shows NOSYNC and DROPPED; T-PCMD-04. -/
theorem test_parserPush_command :
    (let t := exec (.parserPush 0x01 [0x14, 0x50]) { idle with pbuf0 := [0xC8, 0x0C] }
     said t = some ⟨.ok, 0xC0, []⟩ ∧ (after t).pbuf0 = [0xC8, 0x0C] ∧ (after t).pbuf1 = []) ∧
    said (exec (.parserPush 0x02 [0x0C]) idle) = some (Response.error .eArg) := by decide +kernel

/-- T-PCMD-02, T-PCMD-06. -/
theorem test_parserReset :
    (after (exec (.parserReset 0x01 []) { idle with pbuf1 := [0xC8, 0x0C, 0x14] })).pbuf1 = [] ∧
    (after (exec (.parserReset 0x00 [0xAA]) { idle with pbuf0 := [0xC8] })).pbuf0 = [0xC8] := by decide

/-- T-PCMD-03, T-PCMD-08. -/
theorem test_parserLevel :
    said (exec (.parserLevel 0x00 []) { idle with pbuf0 := [0xC8, 0x0C, 0x14, 0x50] }) = some ⟨.ok, 0x04, []⟩ ∧
    said (exec (.parserLevel 0x01 []) { idle with pbuf1 := [0xEE] }) = some ⟨.ok, 0x01, []⟩ := by decide

/-- T-ENV-01, -06, -07. -/
theorem test_envEncode :
    said (exec (.envEncode 0x01 (stamp ++ frameF)) idle) = some ⟨.ok, 0x00, envF⟩ ∧
    said (exec (.envEncode 0x01 (stamp.take 7)) idle) = some (Response.error .eShort) ∧
    said (exec (.envEncode 0x00 (stamp.take 7)) idle) = some (Response.error .ePtype) := by decide +kernel

/-- T-ENV-10, -12, -13, -15, -16. -/
theorem test_envDecode :
    said (exec (.envDecode 0x00 envF) idle) = some ⟨.ok, 0x01, stamp ++ frameF⟩ ∧
    envDecode (envF.take 10) = .error .eShort ∧ envDecode envF.dropLast = .error .eLenMismatch ∧
    envDecode ([0x09] ++ stamp ++ [0x00, 0x00]) = .error .ePtype ∧
    envDecode ([0x09] ++ stamp ++ [0x00, 0x05]) = .error .eLenMismatch := by decide +kernel

/-- T-CFG-01 and T-CFG-02; T-CFG-08. -/
theorem test_cfgRead :
    said (exec (.cfgRead 0x03 []) (State.resetWith blockParams)) = some ⟨.ok, 0x00, [0x00, 0x00, 0x00, 0x02]⟩ ∧
    said (exec (.cfgRead 0x03 []) idle) = some ⟨.ok, 0x00, [0x00, 0x00, 0x00, 0x00]⟩ ∧
    said (exec (.cfgRead 0x04 []) idle) = some (Response.error .eArg) := by decide +kernel

/-- T-RX-10 (the read of STATUS with two bytes and an overflow), and BAUD as four big-endian bytes (T-CFG-05). -/
theorem test_cfgRead_fields :
    said (exec (.cfgRead 0x03 []) { idle with rxfifo := [0x11, 0x22], rxOvf := true }) =
      some ⟨.ok, 0x00, [0x00, 0x02, 0x00, 0x04]⟩ ∧
    said (exec (.cfgRead 0x01 []) idle) = some ⟨.ok, 0x00, [0x00, 0x06, 0x68, 0xA0]⟩ := by decide +kernel

/-- T-CFG-06: the reserved bits of a write are ignored; T-CFG-07: BAUD = 0 is refused at once. -/
theorem test_cfgWrite :
    ((after (exec (.cfgWrite 0x02 [0x12, 0x34, 0x56, 0x78]) idle)).grant 0).settleUs = 0x5678 ∧
    said (exec (.cfgWrite 0x01 [0x00, 0x00, 0x00, 0x00]) idle) = some (Response.error .eArg) := by decide +kernel

/-- T-CFG-12, T-CFG-13: RX_OVF is cleared by bit 2 and by no other. -/
theorem test_cfgWrite_status :
    (after (exec (.cfgWrite 0x03 [0x00, 0x00, 0x00, 0x03]) { idle with rxOvf := true })).rxOvf = true ∧
    (after (exec pseudoClearRxOvf { idle with rxOvf := true })).rxOvf = false := by decide +kernel

/-- T-TX-03: S4 sent inverted, in its earliest run; its answer comes at 4100/21. -/
theorem test_xcvrSend :
    let t := after (runEvents blockParams
      [.grant 0, .clock 50, .phaseEnd, .clock (2000 / 21), .phaseEnd, .clock 50, .phaseEnd]
      (after (exec (.xcvrSend 0x00 frameS4) { idle with ctrl := 1 })))
    t.wire.map (·.value) = [0x37, 0xFD, 0xEF, 0xAD] ∧ t.answers = [⟨0, 4100 / 21, ⟨.ok, 0x00, []⟩⟩] ∧
    t.edges = [⟨0, .rxe, false⟩, ⟨0, .txe, true⟩, ⟨3050 / 21, .txe, false⟩, ⟨3050 / 21, .rxe, true⟩] := by
  decide +kernel

/-- T-TX-01: before its deadline a phase does not end; T-TX-06. -/
theorem test_xcvrSend_waits :
    (after (runEvents blockParams [.grant 0, .clock 49, .phaseEnd]
      (after (exec (.xcvrSend 0x00 frameS4) idle)))).phase = .txSettle ∧
    said (exec (.xcvrSend 0x01 frameS4) idle) = some (Response.error .eArg) := by decide +kernel

/-- T-RX-01 and T-RX-02: a poll takes the oldest bytes, and inverts them when INVERT is 1. -/
theorem test_xcvrRecv :
    (let t := (after (exec (.xcvrRecv 0x00 2) { idle with rxfifo := frameS4 })).grant 0
     t.rxfifo = [0x10, 0x52] ∧ t.answers.map (·.resp) = [⟨.ok, 0x00, [0xC8, 0x02]⟩]) ∧
    ((after (exec (.xcvrRecv 0x00 64) { idle with rxfifo := frameS4, ctrl := 1 })).grant 0).answers.map (·.resp) =
      [⟨.ok, 0x00, [0x37, 0xFD, 0xEF, 0xAD]⟩] := by decide +kernel

/-- T-RX-10: the third byte of a FIFO of two is lost; T-RX-04: a byte that ends in TX_DATA is not received. -/
theorem test_reception :
    (after (runEvents blockParams [.lineStart, .lineStop 0x33 false none] { idle with rxfifo := [0x11, 0x22] })) =
      { idle with rxfifo := [0x11, 0x22], rxOvf := true } ∧
    (after (runEvents blockParams [.lineStart, .lineStop 0x55 false none] { idle with phase := .txData })).rxfifo =
      [] := by decide +kernel

/-- T-RST-04: reset in TX_DATA at 100 cuts the third byte, and the port has no answer. -/
theorem test_reset_in_txData :
    let t := after (runEvents blockParams
      [.grant 0, .clock 50, .phaseEnd, .clock 50, .rstAssert, .clock 100, .rstRelease]
      (after (exec (.xcvrSend 0x00 frameS4) idle)))
    t.wire.map (fun b => (b.stop, b.cut)) = [(1550 / 21, false), (2050 / 21, false), (100, true)] ∧
    t.answers = [] ∧ t.phase = .rxSettle ∧ t.deadline = 300 ∧ t.ports = [Port.reset, Port.reset] := by decide +kernel

/-- T-RST-05 and T-CRCC-01: a command that the host supplies in pieces is taken when its last byte is there; cut by reset,
it is gone. -/
theorem test_host_supplies :
    (after (runEvents blockParams [.host 0 [0x11, 0x00, 0x00, 0x09, 0x31, 0x32], .port 0, .host 0 (digits.drop 2), .port 0]
      idle)).answers = [⟨0, 0, ⟨.ok, 0xBC, []⟩⟩] ∧
    (after (runEvents blockParams [.host 0 [0x11, 0x00, 0x00, 0x09, 0x31, 0x32], .rstAssert, .host 0 [0x33], .rstRelease]
      idle)).ports = [Port.reset, Port.reset] := by decide +kernel

/-- The numbers of the table of R270, and an error response as R271 and R72 lay it out. -/
theorem test_status_codes :
    ([.ok, .eOpcode, .eArg, .eShort, .eLenMismatch, .eSync, .eLenRange, .eExtShort, .eCrc, .eTooLong, .ePtype] :
      List Status).map Status.code = [0x00, 0x01, 0x02, 0x10, 0x11, 0x12, 0x13, 0x14, 0x15, 0x16, 0x17] ∧
    (Response.error .eCrc).bytes = [0x15, 0x00, 0x00, 0x00] := by decide

/-- T-TIME-03. -/
theorem test_tWire : tWire blockParams 420000 14 = 1000 / 3 := by decide +kernel

/-- The written form (R88), from the examples of R106 and R253. -/
theorem test_asm :
    asm (.parserPush 0x00 [0xC8, 0x0C]) = some "PARSER_PUSH 0, [C8 0C]" ∧
    asm (.xcvrRecv 0x00 64) = some "XCVR_RECV 64" ∧
    (Response.mk .ok 0xBC []).asm = "-> OK aux=0xBC []" := by decide +kernel

/-! ## Witnesses: for each statement with hypotheses, what meets them, each clause at the ends of its range -/

/-- The port that every per-command statement is about. -/
theorem witness_port : idle.ports[idle.cur]? = some Port.reset ∧ (1 : Nat) ≠ idle.cur := by decide

/-- A byte string of each length exists. -/
theorem witness_bytes (n : Nat) : ∃ d : Bytes, d.length = n := ⟨List.replicate n 0x00, List.length_replicate⟩

theorem witness_DecodeOfEncode :
    (Instr.nop 0xFF []).wf = true ∧ (Instr.xcvrRecv 0xFF 0xFFFF).wf = true ∧ (Instr.reserved 0xFF 0xFF []).wf = true ∧
    ∃ d : Bytes, d.length = 65535 ∧ (Instr.crcFeed 0x00 d).wf = true := by
  obtain ⟨d, hd⟩ := witness_bytes 65535
  exact ⟨by decide, by decide, by decide, d, hd, by simp [Instr.wf, Instr.opcodeOk, Instr.dinOk, Instr.din, hd]⟩

theorem witness_DecodeIsExact :
    decode ([0x10, 0x00, 0x00, 0x00] ++ [0x12]) = .ok (.crcClear 0x00 [], [0x12]) ∧
    ([0x10, 0x00, 0x00] : Bytes).length < 4 ∧ ([] : Bytes).length < 4 := by decide

theorem witness_ResponseBytesLayout :
    (⟨.ok, 0x00, []⟩ : Response).dout.length ≤ 65535 ∧ ∃ r : Response, r.dout.length = 65535 := by
  obtain ⟨d, hd⟩ := witness_bytes 65535
  exact ⟨by decide, ⟨.ok, 0x00, d⟩, hd⟩

theorem witness_StepRunsDecodedCommand :
    let s : State := { withPort { Port.reset with inbuf := [0x00, 0x00, 0x00, 0x00, 0x12] } with sched := [.port 0] }
    s.sched = .port 0 :: [] ∧ s.rst = false ∧
    s.ports[0]? = some { Port.reset with inbuf := [0x00, 0x00, 0x00, 0x00, 0x12] } ∧
    decode [0x00, 0x00, 0x00, 0x00, 0x12] = .ok (.nop 0x00 [], [0x12]) := by decide

theorem witness_PortHolds :
    let s : State := { withPort { Port.reset with inbuf := [0x00, 0x00, 0x00] } with sched := [.port 0] }
    let u : State := { withPort { Port.reset with cmd := some (.xcvrSend 0x00 []) } with sched := [.port 0] }
    s.ports[0]? = some { Port.reset with inbuf := [0x00, 0x00, 0x00] } ∧
    decode [0x00, 0x00, 0x00] = .error (.headerIncomplete 3) ∧ s.sched = .port 0 :: [] ∧
    u.ports[0]? = some { Port.reset with cmd := some (.xcvrSend 0x00 []) } ∧
    ({ Port.reset with cmd := some (.xcvrSend 0x00 []) } : Port).cmd.isSome = true ∧ u.sched = .port 0 :: [] ∧
    s.rst = false ∧ ({ s with rst := true } : State).rst = true := by
  decide

theorem witness_RunIsItsScheduledSteps :
    ({ idle with sched := [.clock 1, .port 0] } : State).sched = [.clock 1, .port 0] := rfl

theorem witness_OneAnswerOrOneRequest :
    requestOf (.xcvrSend 0x00 []) = some (.send []) ∧ requestOf (.xcvrSend 0x01 []) = none ∧
    requestOf (.cfgWrite 0x01 [0x00, 0x00, 0x00, 0x01]) = some (.cfgw .baud 1) ∧
    requestOf (.cfgWrite 0x01 [0x00, 0x00, 0x00, 0x00]) = none ∧ requestOf (.nop 0x00 []) = none := by decide

theorem witness_ErrorChangesNothing :
    ∃ t, exec (.nop 0x01 []) idle = .next t ∧
      t.answers = idle.answers ++ [⟨idle.cur, idle.now, Response.error .eArg⟩] ∧
      (Response.error .eArg).status ≠ .ok := ⟨_, rfl, by decide, by decide⟩

theorem witness_CommandFrame :
    (∃ t, exec (.crcFeed 0x00 [0x01]) idle = .next t) ∧ (∃ t, exec (.cfgWrite 0x03 [0, 0, 0, 4]) idle = .next t) ∧
    (1 : Nat) ≠ idle.cur := ⟨⟨_, rfl⟩, ⟨_, rfl⟩, by decide⟩

theorem witness_ReadsAndCodecsArePure :
    (∃ t, exec (.nop 0x00 []) idle = .next t) ∧ (∃ t, exec (.crcRead 0x00 []) idle = .next t) ∧
    (∃ t, exec (.frameEncode 0x00 []) idle = .next t) ∧ (∃ t, exec (.frameDecode 0x00 []) idle = .next t) ∧
    (∃ t, exec (.parserLevel 0x00 []) idle = .next t) ∧ (∃ t, exec (.envEncode 0x01 []) idle = .next t) ∧
    (∃ t, exec (.envDecode 0x00 []) idle = .next t) ∧ (∃ t, exec (.cfgRead 0x00 []) idle = .next t) :=
  ⟨⟨_, rfl⟩, ⟨_, rfl⟩, ⟨_, rfl⟩, ⟨_, rfl⟩, ⟨_, rfl⟩, ⟨_, rfl⟩, ⟨_, rfl⟩, ⟨_, rfl⟩⟩

theorem witness_NopAndReservedAnswer :
    idle.ports[idle.cur]? = some Port.reset ∧ ((0x01 : Byte) ≠ 0x00 ∨ ([] : Bytes) ≠ []) ∧
    ((0x00 : Byte) ≠ 0x00 ∨ ([0xAA] : Bytes) ≠ []) := by decide

theorem witness_CrcCommandsAnswer :
    idle.ports[idle.cur]? = some Port.reset ∧ (0xFF : Byte) ≠ 0x00 ∧
    ((0x00 : Byte) ≠ 0x00 ∨ ([0xAA] : Bytes) ≠ []) := by decide

theorem witness_CrcDetectsEveryBitFlip : ([0x14] : Bytes).length = ([0x01] : Bytes).length ∧ (7 : Nat) < 8 := by decide

theorem witness_FrameEncodeAnswers :
    idle.ports[idle.cur]? = some Port.reset ∧ (0x01 : Byte) ≠ 0x00 ∧ ([0xC8] : Bytes).length < 2 ∧
    ((0xC9 : Byte) ∉ Config.syncSet) ∧ ((0xC8 : Byte) ∈ Config.syncSet) ∧ ((0xEE : Byte) ∈ Config.syncSet) ∧
    (0x28 ≤ (0x28 : Byte).toNat ∧ ([0xC8, 0x28, 0x00] : Bytes).length < 4) ∧ (0x27 : Byte).toNat < 0x28 ∧
    62 < (0xC8 :: 0x27 :: List.replicate 61 (0x00 : Byte)).length ∧
    (0xC8 :: 0x27 :: List.replicate 60 (0x00 : Byte)).length ≤ 62 ∧
    4 ≤ ([0xC8, 0x28, 0x00, 0xEA] : Bytes).length := by decide

/-- T-DEC-09, -12, -13, -14, -18, -15 and the ends of the length's range: what reaches each check. -/
theorem witness_FrameDecodeAnswers :
    idle.ports[idle.cur]? = some Port.reset ∧ ([0xC8, 0x02, 0x10] : Bytes).length < 4 ∧
    (0x05 : Byte).toNat + 2 ≠ ([0x00, 0x05, 0x00] ++ [] ++ [0x00] : Bytes).length ∧
    (0x02 : Byte).toNat + 2 = ([0xC9, 0x02, 0x10] ++ [] ++ [0x52] : Bytes).length ∧ (0xC9 : Byte) ∉ Config.syncSet ∧
    (0x3F : Byte).toNat + 2 = ([0xC8, 0x3F, 0x00] ++ List.replicate 61 0x00 ++ [0x00] : Bytes).length ∧
    62 < (0x3F : Byte).toNat ∧ (0x3E : Byte).toNat ≤ 62 ∧
    (0x28 ≤ (0x28 : Byte).toNat ∧ (0x02 : Byte).toNat < 4) ∧ (0x27 : Byte).toNat < 0x28 ∧ 4 ≤ (0x04 : Byte).toNat ∧
    (0x00 : Byte) ≠ crc8 (0x10 :: []) ∧ (0x52 : Byte) = crc8 (0x10 :: []) ∧
    (0x54 : Byte) = crc8 (0x28 :: [0x00, 0xEA]) := by decide +kernel

theorem witness_FrameRoundTrip :
    frameEncode [0xEE, 0x28, 0x00, 0xEA] = .ok frameP ∧ frameDecode frameP = .ok ([0xEE, 0x28, 0x00, 0xEA], true) := by
  decide +kernel

theorem witness_FrameBitFlipRejected :
    (7 : Nat) < 8 ∧ 2 ≤ ([0xC8, 0x02] : Bytes).length ∧ frameValid ([0xC8, 0x02] ++ 0x10 :: [0x52]) = true ∧
    frameValid ([0xC8, 0x02, 0x10] ++ 0x52 :: []) = true := by decide +kernel

theorem witness_ParserPushAnswers :
    idle.ports[idle.cur]? = some Port.reset ∧ 2 ≤ (0x02 : Byte).toNat ∧
    (∃ d : Bytes, 65472 < d.length ∧ d.length = 65473) ∧ ∃ d : Bytes, d.length ≤ 65472 ∧ d.length = 65472 := by
  obtain ⟨d, hd⟩ := witness_bytes 65473
  obtain ⟨e, he⟩ := witness_bytes 65472
  exact ⟨by decide, by decide, ⟨d, by omega, hd⟩, e, by omega, he⟩

/-- A buffer of 63 bytes, one short of the frame its length byte announces. -/
def fullBuffer : Bytes := 0xC8 :: 0x3E :: List.replicate 61 0x00

theorem witness_ParserResetAndLevelAnswer :
    idle.ports[idle.cur]? = some Port.reset ∧ (2 ≤ (0x02 : Byte).toNat ∨ ([] : Bytes) ≠ []) ∧
    (2 ≤ (0x01 : Byte).toNat ∨ ([0xAA] : Bytes) ≠ []) ∧ bufferOk idle.pbuf0 = true ∧
    bufferOk ({ idle with pbuf0 := fullBuffer, pbuf1 := [0xEE] } : State).pbuf0 = true ∧ fullBuffer.length = 63 ∧
    bufferOk ({ idle with pbuf0 := fullBuffer, pbuf1 := [0xEE] } : State).pbuf1 = true := by decide

theorem witness_ParserScanFollowsTheLoop :
    (∀ x ∈ ([0x00, 0xC9] : Bytes), x ∉ Config.syncSet) ∧ (∀ x ∈ ([] : Bytes), x ∉ Config.syncSet) ∧
    (0xEE : Byte) ∈ Config.syncSet ∧ (0x01 : Byte).toNat < 2 ∧ 62 < (0x3F : Byte).toNat ∧
    (2 ≤ (0x02 : Byte).toNat ∧ (0x02 : Byte).toNat ≤ 62) ∧ (2 ≤ (0x3E : Byte).toNat ∧ (0x3E : Byte).toNat ≤ 62) ∧
    ([0x10] : Bytes).length < (0x02 : Byte).toNat ∧
    ([0x10, 0x52, 0xEE] : Bytes) = [0x10, 0x52] ++ [0xEE] ∧ ([0x10, 0x52] : Bytes).length = (0x02 : Byte).toNat := by
  decide

theorem witness_ParserChunkingIrrelevant :
    bufferOk [] = true ∧ bufferOk [0xEE] = true ∧ bufferOk [0xC8, 0x02] = true ∧ bufferOk fullBuffer = true := by decide

theorem witness_ParserStreamingEquivalent : bufferOk fullBuffer = true ∧ bufferOk [0xC8, 0x0C, 0x14] = true := by
  decide

theorem witness_ParserSliceFailures :
    (0xC8 : Byte) ∈ Config.syncSet ∧ 2 ≤ (0x02 : Byte).toNat ∧ (0x02 : Byte).toNat ≤ 62 ∧
    ([0x28, 0x8D] : Bytes).length = (0x02 : Byte).toNat ∧
    frameDecode (0xC8 :: 0x02 :: [0x28, 0x8D]) = .error .eExtShort ∧
    frameDecode (0xC8 :: 0x02 :: [0x10, 0x00]) = .error .eCrc := by decide +kernel

theorem witness_ParserPartialDelivery :
    frameValid ([0xC8] ++ [0x02] ++ [0x10, 0x52]) = true ∧ ([0x10, 0x52] : Bytes) ≠ [] ∧
    frameValid ([] ++ [] ++ frameP) = true ∧ frameP ≠ [] := by decide +kernel

theorem witness_ParserResynchronizes :
    (∀ x ∈ ([0x00, 0x11, 0x22] : Bytes), x ∉ Config.syncSet) ∧ frameValid frameF = true := by decide +kernel

theorem witness_ParserInstancesCommute :
    idle.ports[idle.cur]? = some Port.reset ∧ ∃ c : Bytes, c.length ≤ 65472 ∧ c.length = 65472 := by
  obtain ⟨c, hc⟩ := witness_bytes 65472
  exact ⟨by decide, c, by omega, hc⟩

theorem witness_EnvEncodeAnswers :
    idle.ports[idle.cur]? = some Port.reset ∧ (0x00 : Byte) ∉ Config.ptypes ∧ (0x04 : Byte) ∉ Config.ptypes ∧
    (0x01 : Byte) ∈ Config.ptypes ∧ (0x03 : Byte) ∈ Config.ptypes ∧ (stamp.take 7).length < 8 ∧ stamp.length = 8 ∧
    (∃ q : Bytes, 65523 < q.length ∧ q.length = 65524) ∧ ∃ q : Bytes, q.length ≤ 65523 ∧ q.length = 65523 := by
  obtain ⟨d, hd⟩ := witness_bytes 65524
  obtain ⟨e, he⟩ := witness_bytes 65523
  exact ⟨by decide, by decide, by decide, by decide, by decide, by decide, by decide, ⟨d, by omega, hd⟩, e, by omega, he⟩

theorem witness_EnvDecodeAnswers :
    idle.ports[idle.cur]? = some Port.reset ∧ (0x01 : Byte) ≠ 0x00 ∧ (envF.take 10).length < 11 ∧
    envF = [0x01] ++ stamp ++ [0x00, 0x0E] ++ frameF ∧ stamp.length = 8 ∧
    (0x00 : Byte).toNat * 256 + (0x0E : Byte).toNat = frameF.length ∧
    (0x00 : Byte).toNat * 256 + (0x0F : Byte).toNat ≠ frameF.length ∧
    (0x09 : Byte) ∉ Config.ptypes ∧ (0x01 : Byte) ∈ Config.ptypes ∧
    (∃ q : Bytes, (0xFF : Byte).toNat * 256 + (0xF4 : Byte).toNat = q.length ∧ 65523 < q.length) ∧
    ∃ q : Bytes, (0xFF : Byte).toNat * 256 + (0xF3 : Byte).toNat = q.length ∧ q.length ≤ 65523 := by
  obtain ⟨d, hd⟩ := witness_bytes 65524
  obtain ⟨e, he⟩ := witness_bytes 65523
  exact ⟨by decide, by decide, by decide, rfl, by decide, by decide, by decide, by decide, by decide,
    ⟨d, by rw [hd]; decide, by omega⟩, e, by rw [he]; decide, by omega⟩

theorem witness_EnvelopeRoundTrip :
    (0x01 : Byte) ∈ Config.ptypes ∧ stamp.length = 8 ∧ frameF.length ≤ 65523 ∧ ([] : Bytes).length ≤ 65523 ∧
    envDecode envF = .ok ⟨0x01, stamp, frameF⟩ := by decide +kernel

/-- T-TX-01 and T-TX-04: the least times, for four bytes and for none. -/
theorem witness_XcvrSendRunsToItsAnswer :
    idle.ports[idle.cur]? = some Port.reset ∧ (0x01 : Byte) ≠ 0x00 ∧ idle.rst = false ∧ idle.phase = .idle ∧
    (idle.settle.toNat : Rat) ≤ 50 ∧ tWire blockParams idle.baud frameS4.length ≤ 2000 / 21 ∧
    tWire blockParams idle.baud ([] : Bytes).length ≤ 0 := by decide +kernel

theorem witness_EmissionTimesAndValues : frameS4[3]? = some 0x52 ∧ frameS4[0]? = some 0xC8 := by decide

theorem witness_XcvrRecvAnswers :
    idle.ports[idle.cur]? = some Port.reset ∧ (0x01 : Byte) ≠ 0x00 ∧ idle.rst = false ∧ idle.phase = .idle := by decide

/-- T-TX-04 in its earliest run. -/
def sendStream : Nat → Event
  | 0 => .grant 0
  | 1 => .clock 50
  | 2 => .phaseEnd
  | 3 => .phaseEnd
  | 4 => .clock 50
  | _ => .phaseEnd

theorem witness_SendHoldsTheLine :
    let s := withPort { Port.reset with cmd := some (.xcvrSend 0x00 []), pend := some (.send []) }
    s.rst = false ∧ s.phase = .idle ∧ s.pend 0 = some (.send []) ∧ sendStream 0 = .grant 0 ∧
    (∀ k, k < 6 → sendStream k ≠ .rstAssert) ∧ 1 ≤ 6 ∧ (follow blockParams sendStream s 6).phase = .idle := by
  decide +kernel

theorem witness_NothingGrantedWhileBusy :
    ({ idle with phase := .txData } : State).phase ≠ .idle ∧ idle.pend 0 = none ∧
    (∃ t, agentStep blockParams (.port 0)
      { withPort { Port.reset with inbuf := [0x61, 0x00, 0x00, 0x04, 0, 0, 0, 1] } with phase := .rxSettle } = .next t) ∧
    Event.port 0 ≠ .rstRelease := ⟨by decide, by decide, ⟨_, rfl⟩, by decide⟩

theorem witness_OnlyArbiterMovesTheLine :
    (∃ t, agentStep blockParams .lineStart idle = .next t) ∧ (∀ p, Event.lineStart ≠ .grant p) ∧
    Event.lineStart ≠ .phaseEnd ∧ Event.lineStart ≠ .rstAssert ∧ Event.lineStart ≠ .rstRelease :=
  ⟨⟨_, rfl⟩, (fun _ h => nomatch h), by decide, by decide, by decide⟩

theorem witness_OutputsFollowPhase :
    idle.rst = false ∧ blockParams.dirPins = .two ∧ ({ blockParams with dirPins := .one } : Config.Params).dirPins = .one := by
  decide

/-- Each clause of the reception: a start in either direction, a grant that breaks a byte, an end in either direction, a
FIFO with room and one that is full. -/
theorem witness_ReceptionOfAByte :
    (idle.rst = false ∧ idle.lineByte = none ∧ idle.phase = .idle) ∧
    (({ idle with phase := .txSettle } : State).lineByte = none ∧ ({ idle with phase := .txSettle } : State).phase = .txSettle) ∧
    (let s : State := { withPort { Port.reset with cmd := some (.xcvrSend 0x00 []), pend := some (.send []) } with
        lineByte := some .whole }
     s.phase = .idle ∧ s.pend 0 = some (.send []) ∧ s.lineByte = some .whole) ∧
    ({ idle with lineByte := some .late, phase := .rxSettle } : State).lineByte = some .late ∧
    ({ idle with lineByte := some .broken, phase := .txData } : State).lineByte = some .broken ∧
    idle.rxfifo.length < blockParams.rxFifoDepth ∧
    blockParams.rxFifoDepth ≤ ({ idle with rxfifo := [0x11, 0x22] } : State).rxfifo.length := by decide

theorem witness_FifoDuringASend :
    (∃ t, agentStep blockParams (.lineStop 0x55 false none)
      { idle with phase := .rxSettle, lineByte := some .whole } = .next t) ∧
    (∃ t, agentStep blockParams (.lineStop 0x55 false none)
      { idle with phase := .txData, lineByte := some .whole } = .next t) ∧
    ({ idle with phase := .txData } : State).rst = false ∧ Event.lineStop 0x55 false none ≠ .rstRelease :=
  ⟨⟨_, rfl⟩, ⟨_, rfl⟩, by decide, by decide⟩

theorem witness_OverflowClearedOnlyByHost :
    (∃ t, agentStep blockParams (.port 0)
      { withPort { Port.reset with inbuf := [0x61, 0x03, 0x00, 0x04, 0, 0, 0, 4] } with rxOvf := true } = .next t ∧
      t.rxOvf = false) ∧
    ∃ t, agentStep blockParams .rstRelease { idle with rxOvf := true, rst := true } = .next t ∧ t.rxOvf = false :=
  ⟨⟨_, rfl, by decide +kernel⟩, ⟨_, rfl, by decide +kernel⟩⟩

theorem witness_CfgReadAnswers :
    idle.ports[idle.cur]? = some Port.reset ∧ (4 ≤ (0x04 : Byte).toNat ∨ ([] : Bytes) ≠ []) ∧
    (4 ≤ (0x03 : Byte).toNat ∨ ([0xAA] : Bytes) ≠ []) ∧ idle.rxfifo.length ≤ 65535 ∧
    ∃ s : State, s.ports[s.cur]? = some Port.reset ∧ s.rxfifo.length ≤ 65535 ∧ s.rxfifo.length = 65535 := by
  obtain ⟨d, hd⟩ := witness_bytes 65535
  exact ⟨by decide, by decide, by decide, by decide, { idle with rxfifo := d }, rfl, hd.le, hd⟩

theorem witness_CfgWriteAnswers :
    idle.ports[idle.cur]? = some Port.reset ∧ (4 ≤ (0x04 : Byte).toNat ∨ ([0, 0, 0, 0] : Bytes).length ≠ 4) ∧
    (4 ≤ (0x03 : Byte).toNat ∨ ([0, 0, 1] : Bytes).length ≠ 4) ∧
    (0x000668A0 : Word) = ((0x00#8 ++ 0x06#8 : BitVec 16) ++ (0x68#8 ++ 0xA0#8 : BitVec 16) : BitVec 32) ∧
    (0x000668A0 : Word) ≠ 0 ∧
    (0 : Word) = ((0x00#8 ++ 0x00#8 : BitVec 16) ++ (0x00#8 ++ 0x00#8 : BitVec 16) : BitVec 32) ∧
    idle.rst = false ∧ idle.phase = .idle := by decide

theorem witness_ResetReleaseState : ({ idle with rst := true } : State).rst = true := rfl

theorem witness_ResetHoldsTheBlock :
    ({ idle with rst := true } : State).rst = true ∧
    (∃ t, agentStep blockParams (.port 0) { idle with rst := true } = .next t) ∧ Event.port 0 ≠ .rstRelease :=
  ⟨rfl, ⟨_, rfl⟩, by decide⟩

/-- T-TX-01 at 100: in TX_DATA, with two bytes that have ended, one on the wire and one to come. -/
def midSend : State :=
  { idle with
    phase := .txData
    now := 100
    wire := emission 0x00 (500 / 21) 50 frameS4 }

theorem witness_ResetAssertedOnTheLine :
    midSend.rst = false ∧ midSend.phase = .txData ∧
    (∃ b ∈ midSend.wire, b.stop ≤ midSend.now) ∧ (∃ b ∈ midSend.wire, b.start < midSend.now ∧ midSend.now < b.stop) ∧
    WireOk idle ∧ Quiet idle ∧ (∃ t, agentStep blockParams .rstAssert idle = .next t) ∧
    let s : State := { midSend with phase := .rxSettle, now := 200 }
    s.phase = .rxSettle ∧ WireOk s := by
  refine ⟨rfl, rfl, by decide +kernel, by decide +kernel, ⟨by decide, by decide⟩, ⟨rfl, by decide⟩, ⟨_, rfl⟩, rfl, ?_⟩
  exact ⟨by decide +kernel, by decide +kernel⟩

/-- The settle time goes by, then the phase ends. -/
def resetStream : Nat → Event
  | 0 => .clock 100
  | _ => .phaseEnd

theorem witness_ResetSettleComesFirst :
    (∀ k, k < 2 → resetStream k ≠ .rstAssert) ∧
    (follow blockParams resetStream (State.resetWith blockParams) 2).phase ≠ .rxSettle ∧
    ({ midSend with rst := true } : State).rst = true ∧
    agentStep blockParams .rstRelease { midSend with rst := true } =
      .next (State.rstRelease blockParams { midSend with rst := true }) ∧
    (follow blockParams resetStream (State.rstRelease blockParams { midSend with rst := true }) 2).phase ≠ .rxSettle :=
  ⟨by decide, by decide +kernel, rfl, rfl, by decide +kernel⟩

/-! ### The invariants: a state of the block as it is built that meets each, and its step -/

/-- After reset, and the peer about to send. -/
def started : State := { State.reset with sched := [.lineStart] }

theorem started_ports : started.ports.length = Config.params.nPorts := by
  have := Config.params.nPorts_pos
  simp only [started, State.reset, State.resetWith, List.length_cons, List.length_replicate]; omega

theorem witness_BuffersInvariant : BuffersOk Config.params started ∧ ∃ t, step started = .next t :=
  ⟨⟨rfl, rfl, Nat.zero_le _⟩, _, rfl⟩

theorem witness_LineInvariant : LineOk Config.params started ∧ ∃ t, step started = .next t := by
  refine ⟨⟨⟨by decide, Config.params.baudReset_ne, ?_⟩, ⟨.inl rfl, rfl⟩, started_ports, ?_, (fun _ h => nomatch h)⟩, _, rfl⟩
  · apply BitVec.eq_of_getLsbD_eq
    intro i hi
    simp only [started, State.reset, State.resetWith, BitVec.getLsbD_and, BitVec.getLsbD_setWidth]
    by_cases h : i < 16
    · have : (0xFFFF0000#32).getLsbD i = false := by interval_cases i <;> rfl
      simp [this]
    · simp [BitVec.getLsbD_of_ge _ i (by omega : 16 ≤ i)]
  · intro p q h
    have : q = Port.reset := by
      simp only [started, State.reset, State.resetWith] at h
      cases p with
      | zero => simpa using h.symm
      | succ p =>
        simp only [List.getElem?_cons_succ] at h
        exact List.eq_of_mem_replicate (List.mem_of_getElem? h)
    subst this
    exact ⟨rfl, by simp [started, State.reset, State.resetWith]⟩

theorem witness_WireInvariant :
    WireOk { midSend with deadline := 3050 / 21 } ∧ ∃ t, step { midSend with deadline := 3050 / 21 } = .next t :=
  ⟨⟨by decide +kernel, by decide +kernel⟩, _, rfl⟩

/-- In TX_SETTLE, after the two edges of its grant. -/
def settling : State := { idle with phase := .txSettle, edges := edgesToTransmit 0 }

theorem witness_BreakBeforeMakeInvariant : EdgesOk settling ∧ ∃ t, step settling = .next t := by
  refine ⟨⟨?_, by decide, by decide +kernel, by decide +kernel⟩, _, rfl⟩
  intro k
  match k with
  | 0 => decide
  | 1 => decide
  | k + 2 => simp [settling, edgesToTransmit, levelsAfter]

theorem witness_AnswersInvariant :
    BuffersOk Config.params started ∧ AnswersOk Config.params started ∧ ∃ t, step started = .next t :=
  ⟨⟨rfl, rfl, Nat.zero_le _⟩, ⟨started_ports, (fun _ h => nomatch h), (fun _ h => nomatch h)⟩, _, rfl⟩

/-! ### A fair run -/

/-- Port 0 waits for a poll of an empty FIFO (T-RX-08). -/
def polling : State := withPort { Port.reset with cmd := some (.xcvrRecv 0x00 64), pend := some (.recv 64) }

/-- A microsecond goes by, the arbiter may end a phase, and it may grant port 0; and so on. -/
def roundRobin (n : Nat) : Event := if n % 3 = 0 then .clock 1 else if n % 3 = 1 then .phaseEnd else .grant 0

/-- After the poll is answered, at the time `x`. -/
def polledAt (x : Rat) : State := { idle with now := x, answers := [⟨0, 1, ⟨.ok, 0x00, []⟩⟩] }

theorem polledAt_clock (x : Rat) : agentStep blockParams (.clock 1) (polledAt x) = .next (polledAt (x + 1)) := by
  simp [agentStep, State.clock, polledAt]

theorem polledAt_phaseEnd (x : Rat) : agentStep blockParams .phaseEnd (polledAt x) = .next (polledAt x) := rfl

theorem polledAt_grant (x : Rat) : agentStep blockParams (.grant 0) (polledAt x) = .next (polledAt x) := rfl

theorem roundRobin_run (k : Nat) :
    follow blockParams roundRobin polling (3 * k + 3) = polledAt (k + 1) ∧
    follow blockParams roundRobin polling (3 * k + 4) = polledAt (k + 2) ∧
    follow blockParams roundRobin polling (3 * k + 5) = polledAt (k + 2) := by
  have later (k : Nat) (h : follow blockParams roundRobin polling (3 * k + 3) = polledAt (k + 1)) :
      follow blockParams roundRobin polling (3 * k + 4) = polledAt (k + 2) ∧
      follow blockParams roundRobin polling (3 * k + 5) = polledAt (k + 2) := by
    have h4 : follow blockParams roundRobin polling (3 * k + 4) = polledAt (k + 2) := by
      apply follow_succ
      rw [h, show roundRobin (3 * k + 3) = .clock 1 by simp [roundRobin], polledAt_clock]
      norm_num [add_assoc]
    refine ⟨h4, follow_succ ?_⟩
    rw [h4, show roundRobin (3 * k + 4) = .phaseEnd by
      simp [roundRobin, show (3 * k + 4) % 3 = 1 by omega], polledAt_phaseEnd]
  induction k with
  | zero =>
    have h : follow blockParams roundRobin polling 3 = polledAt (0 + 1) := by decide +kernel
    have h' : follow blockParams roundRobin polling (3 * 0 + 3) = polledAt ((0 : Nat) + 1) := by simpa using h
    exact ⟨h', later 0 h'⟩
  | succ k ih =>
    have h : follow blockParams roundRobin polling (3 * (k + 1) + 3) = polledAt ((k + 1 : Nat) + 1) := by
      apply follow_succ (n := 3 * k + 5)
      rw [ih.2.2, show roundRobin (3 * k + 5) = .grant 0 by simp [roundRobin, show (3 * k + 5) % 3 = 2 by omega],
        polledAt_grant]
      norm_num [add_assoc]
    exact ⟨h, later (k + 1) h⟩

/-- From the answer on, nothing is grantable. -/
theorem roundRobin_quiet (m : Nat) (h : 3 ≤ m) (p : Nat) :
    (follow blockParams roundRobin polling m).grantable p = false := by
  have quiet (x : Rat) : (polledAt x).grantable p = false := by
    match p with
    | 0 => rfl
    | 1 => rfl
    | p + 2 => rfl
  obtain ⟨k, hk⟩ : ∃ k, m = 3 * k + 3 ∨ m = 3 * k + 4 ∨ m = 3 * k + 5 := ⟨m / 3 - 1, by omega⟩
  obtain ⟨h3, h4, h5⟩ := roundRobin_run k
  rcases hk with rfl | rfl | rfl
  · rw [h3]; exact quiet _
  · rw [h4]; exact quiet _
  · rw [h5]; exact quiet _

theorem roundRobin_fair : Fair blockParams roundRobin polling where
  noReset n := by
    unfold roundRobin
    split
    · decide
    · split <;> decide
  timeDiverges t := by
    obtain ⟨k, hk⟩ := exists_nat_ge t
    refine ⟨3 * k + 3, ?_⟩
    rw [(roundRobin_run k).1]
    show t ≤ (k : Rat) + 1
    linarith
  phasesEnd n _ := ⟨3 * n + 1, by omega, by simp [roundRobin]⟩
  grants p n h := by
    obtain ⟨m, hm, hg⟩ := h (n + 3) (by omega)
    rw [roundRobin_quiet m (by omega) p] at hg
    cases hg

theorem polling_lineOk : LineOk blockParams polling := by
  refine ⟨⟨by decide, by decide, by decide⟩, ⟨.inl rfl, rfl, rfl⟩, rfl, ?_, fun _ h => nomatch h⟩
  intro p q h
  match p with
  | 0 =>
    have : q = { Port.reset with cmd := some (.xcvrRecv 0x00 64), pend := some (.recv 64) } := by
      simpa [polling, withPort] using h.symm
    subst this
    exact .inl ⟨.recv 64, rfl, rfl, by decide⟩
  | 1 =>
    have : q = Port.reset := by simpa [polling, withPort] using h.symm
    subst this
    exact ⟨rfl, by decide⟩
  | p + 2 => simp [polling, withPort] at h

theorem witness_EveryLineRequestIsAnswered :
    LineOk blockParams polling ∧ polling.rst = false ∧ Fair blockParams roundRobin polling ∧
    (polling.pend 0).isSome = true := ⟨polling_lineOk, rfl, roundRobin_fair, rfl⟩

end Sys2Proof.Machine.Tests
end

namespace Sys2Proof.Machine

/-! ## The schedule

`sched` is read by `stepWith` alone: replacing it commutes with every operation, every command and every agent's step. -/

/-- `s` with the agents' steps `es` still to be taken. -/
def State.withSched (s : State) (es : List Event) : State := { s with sched := es }

/-- The outcome with the agents' steps `es` still to be taken, if there is a next state. -/
def Result.withSched : Result → List Event → Result
  | .next t, es => .next (t.withSched es)
  | .fault r, _ => .fault r
  | .refused r, _ => .refused r

section
variable (s : State) (es : List Event)

/-! ### What a replaced schedule leaves unchanged -/

@[simp] theorem State.withSched_ports : (s.withSched es).ports = s.ports := rfl
@[simp] theorem State.withSched_cur : (s.withSched es).cur = s.cur := rfl
@[simp] theorem State.withSched_rst : (s.withSched es).rst = s.rst := rfl
@[simp] theorem State.withSched_phase : (s.withSched es).phase = s.phase := rfl
@[simp] theorem State.withSched_owner : (s.withSched es).owner = s.owner := rfl
@[simp] theorem State.withSched_lineByte : (s.withSched es).lineByte = s.lineByte := rfl
@[simp] theorem State.withSched_rxe : (s.withSched es).rxe = s.rxe := rfl
@[simp] theorem State.withSched_curCrc : (s.withSched es).curCrc = s.curCrc := rfl
@[simp] theorem State.withSched_pend (p : Nat) : (s.withSched es).pend p = s.pend p := rfl
@[simp] theorem State.withSched_phaseEndEnabled : (s.withSched es).phaseEndEnabled = s.phaseEndEnabled := rfl
@[simp] theorem State.withSched_pbuf (i : ParserId) : (s.withSched es).pbuf i = s.pbuf i := by cases i <;> rfl
@[simp] theorem State.withSched_regval (r : RegIndex) : (s.withSched es).regval r = s.regval r := by cases r <;> rfl

@[simp] theorem Result.withSched_next : Result.withSched (.next s) es = .next (s.withSched es) := rfl
@[simp] theorem Result.withSched_fault (r : Fault) : Result.withSched (.fault r) es = .fault r := rfl

/-! ### The operations on the state -/

@[simp] theorem setCurCrc_withSched (c : Byte) :
    (s.withSched es).setCurCrc c = (s.setCurCrc c).withSched es := rfl
@[simp] theorem setPbuf_withSched (i : ParserId) (b : Bytes) :
    (s.withSched es).setPbuf i b = (s.setPbuf i b).withSched es := by cases i <;> rfl
@[simp] theorem writeStatus_withSched (v : Word) :
    (s.withSched es).writeStatus v = (s.writeStatus v).withSched es := rfl
@[simp] theorem writeLineReg_withSched (r : LineReg) (v : Word) :
    (s.withSched es).writeLineReg r v = (s.writeLineReg r v).withSched es := by cases r <;> rfl
@[simp] theorem modPort_withSched (p : Nat) (f : Port → Port) :
    (s.withSched es).modPort p f = (s.modPort p f).withSched es := rfl
@[simp] theorem clearPend_withSched (p : Nat) :
    (s.withSched es).clearPend p = (s.clearPend p).withSched es := rfl
@[simp] theorem answer_withSched (p : Nat) (r : Response) :
    (s.withSched es).answer p r = (s.answer p r).withSched es := rfl

@[simp] theorem respond_withSched (st : Status) (aux : Byte) (dout : Bytes) :
    respond st aux dout (s.withSched es) = (respond st aux dout s).withSched es := by
  cases h : s.ports[s.cur]? <;> simp [respond, h]

@[simp] theorem raise_withSched (e : Status) : raise e (s.withSched es) = (raise e s).withSched es :=
  respond_withSched s es e 0x00 []

@[simp] theorem request_withSched (r : Request) : request r (s.withSched es) = (request r s).withSched es := by
  cases h : s.ports[s.cur]? with
  | none => simp [request, h]
  | some q => simp only [request, State.withSched_ports, State.withSched_cur, h]; rfl

/-! ### The commands -/

theorem execNop_withSched (arg : Byte) (din : Bytes) :
    execNop arg din (s.withSched es) = (execNop arg din s).withSched es := by
  unfold execNop; split <;> simp

theorem execCrcClear_withSched (arg : Byte) (din : Bytes) :
    execCrcClear arg din (s.withSched es) = (execCrcClear arg din s).withSched es := by
  unfold execCrcClear; split <;> simp

theorem execCrcFeed_withSched (arg : Byte) (din : Bytes) :
    execCrcFeed arg din (s.withSched es) = (execCrcFeed arg din s).withSched es := by
  unfold execCrcFeed; split <;> simp

theorem execCrcRead_withSched (arg : Byte) (din : Bytes) :
    execCrcRead arg din (s.withSched es) = (execCrcRead arg din s).withSched es := by
  unfold execCrcRead; split <;> simp

theorem execFrameEncode_withSched (arg : Byte) (din : Bytes) :
    execFrameEncode arg din (s.withSched es) = (execFrameEncode arg din s).withSched es := by
  unfold execFrameEncode; split
  · simp
  · split <;> simp

theorem execFrameDecode_withSched (arg : Byte) (din : Bytes) :
    execFrameDecode arg din (s.withSched es) = (execFrameDecode arg din s).withSched es := by
  unfold execFrameDecode; split
  · simp
  · split <;> simp

theorem execParserPush_withSched (arg : Byte) (din : Bytes) :
    execParserPush arg din (s.withSched es) = (execParserPush arg din s).withSched es := by
  unfold execParserPush; split
  · simp
  · split <;> simp

theorem execParserReset_withSched (arg : Byte) (din : Bytes) :
    execParserReset arg din (s.withSched es) = (execParserReset arg din s).withSched es := by
  unfold execParserReset; split
  · simp
  · split <;> simp

theorem execParserLevel_withSched (arg : Byte) (din : Bytes) :
    execParserLevel arg din (s.withSched es) = (execParserLevel arg din s).withSched es := by
  unfold execParserLevel; split
  · simp
  · split <;> simp

theorem execEnvEncode_withSched (arg : Byte) (din : Bytes) :
    execEnvEncode arg din (s.withSched es) = (execEnvEncode arg din s).withSched es := by
  unfold execEnvEncode; split
  · simp
  · split
    · simp
    · split <;> simp

theorem execEnvDecode_withSched (arg : Byte) (din : Bytes) :
    execEnvDecode arg din (s.withSched es) = (execEnvDecode arg din s).withSched es := by
  unfold execEnvDecode; split
  · simp
  · split <;> simp

theorem execXcvrSend_withSched (arg : Byte) (din : Bytes) :
    execXcvrSend arg din (s.withSched es) = (execXcvrSend arg din s).withSched es := by
  unfold execXcvrSend; split <;> simp

theorem execXcvrRecv_withSched (arg : Byte) (m : Half) :
    execXcvrRecv arg m (s.withSched es) = (execXcvrRecv arg m s).withSched es := by
  unfold execXcvrRecv; split <;> simp

theorem execCfgRead_withSched (arg : Byte) (din : Bytes) :
    execCfgRead arg din (s.withSched es) = (execCfgRead arg din s).withSched es := by
  unfold execCfgRead; split
  · simp
  · split <;> simp

theorem execCfgWrite_withSched (arg : Byte) (din : Bytes) :
    execCfgWrite arg din (s.withSched es) = (execCfgWrite arg din s).withSched es := by
  unfold execCfgWrite
  cases regArg arg with
  | none => exact raise_withSched s es _
  | some r =>
    dsimp only
    split
    · simp
    · cases r with
      | ctrl => simp
      | baud => dsimp only; split <;> simp
      | settleUs => simp
      | status => simp

/-- What a command does and answers does not depend on the agents' steps still to be taken. -/
theorem exec_withSched (i : Instr) : exec i (s.withSched es) = Result.withSched (exec i s) es := by
  cases i with
  | nop a d => exact execNop_withSched s es a d
  | crcClear a d => exact execCrcClear_withSched s es a d
  | crcFeed a d => exact execCrcFeed_withSched s es a d
  | crcRead a d => exact execCrcRead_withSched s es a d
  | frameEncode a d => exact execFrameEncode_withSched s es a d
  | frameDecode a d => exact execFrameDecode_withSched s es a d
  | parserPush a d => exact execParserPush_withSched s es a d
  | parserReset a d => exact execParserReset_withSched s es a d
  | parserLevel a d => exact execParserLevel_withSched s es a d
  | envEncode a d => exact execEnvEncode_withSched s es a d
  | envDecode a d => exact execEnvDecode_withSched s es a d
  | xcvrSend a d => exact execXcvrSend_withSched s es a d
  | xcvrRecv a m => exact execXcvrRecv_withSched s es a m
  | cfgRead a d => exact execCfgRead_withSched s es a d
  | cfgWrite a d => exact execCfgWrite_withSched s es a d
  | reserved o a d => exact raise_withSched s es _

/-! ### The agents -/

theorem hostBytes_withSched (p : Nat) (bs : Bytes) :
    (s.withSched es).hostBytes p bs = (s.hostBytes p bs).withSched es := by
  cases h : s.rst <;> simp [State.hostBytes, h]

theorem fetch_withSched (p : Nat) :
    (s.withSched es).fetch p = (s.fetch p).map fun (i, t) => (i, t.withSched es) := by
  cases hr : s.rst with
  | true => simp [State.fetch, hr]
  | false =>
    cases hq : s.ports[p]? with
    | none => simp [State.fetch, hr, hq]
    | some q =>
      cases hc : q.cmd with
      | some j => simp [State.fetch, hr, hq, hc]
      | none =>
        cases hd : decode q.inbuf with
        | error e => simp [State.fetch, hr, hq, hc, hd]
        | ok r => simp [State.fetch, hr, hq, hc, hd, State.withSched]

theorem portStep_withSched (p : Nat) :
    (s.withSched es).portStep p = Result.withSched (s.portStep p) es := by
  unfold State.portStep
  rw [fetch_withSched]
  cases s.fetch p with
  | none => rfl
  | some r => exact exec_withSched r.2 es r.1

@[simp] theorem serve_withSched (p : Nat) (r : Request) :
    (s.withSched es).serve p r = (s.serve p r).withSched es := by
  cases r with
  | send d => rfl
  | recv m => rfl
  | cfgw r v => simp [State.serve, State.grantCfgw]

theorem grant_withSched (p : Nat) : (s.withSched es).grant p = (s.grant p).withSched es := by
  by_cases h : s.rst = true ∨ s.phase ≠ .idle
  · simp [State.grant, h]
  · cases hp : s.pend p <;> simp [State.grant, h, hp]

@[simp] theorem endTxSettle_withSched (P : Config.Params) :
    (s.withSched es).endTxSettle P = (s.endTxSettle P).withSched es := rfl

@[simp] theorem endTxData_withSched : (s.withSched es).endTxData = s.endTxData.withSched es := rfl

@[simp] theorem endRxSettle_withSched : (s.withSched es).endRxSettle = s.endRxSettle.withSched es := by
  simp only [State.endRxSettle, State.withSched_owner]
  cases s.owner <;> rfl

theorem phaseEnd_withSched (P : Config.Params) : (s.withSched es).phaseEnd P = (s.phaseEnd P).withSched es := by
  cases h : s.phaseEndEnabled with
  | false => simp [State.phaseEnd, h]
  | true => cases hp : s.phase <;> simp [State.phaseEnd, h, hp]

theorem lineStart_withSched : (s.withSched es).lineStart = s.lineStart.withSched es := by
  simp only [State.lineStart, State.withSched_lineByte]
  cases s.lineByte <;> rfl

theorem rxAccept_withSched (P : Config.Params) (v : Byte) :
    (s.withSched es).rxAccept P v = (s.rxAccept P v).withSched es := by
  by_cases h : s.rxfifo.length < P.rxFifoDepth <;> simp [State.rxAccept, h, State.withSched]

theorem lineStop_withSched (P : Config.Params) (v : Byte) (framing : Bool) (drawn : Option Byte) :
    (s.withSched es).lineStop P v framing drawn = (s.lineStop P v framing drawn).withSched es := by
  cases hl : s.lineByte with
  | none => simp [State.lineStop, hl]
  | some w =>
    cases h : s.rst || !s.rxe with
    | true =>
      simp only [State.lineStop, State.withSched_lineByte, State.withSched_rst, State.withSched_rxe, hl, h]
      rfl
    | false =>
      simp only [State.lineStop, State.withSched_lineByte, State.withSched_rst, State.withSched_rxe, hl, h]
      cases received w v framing drawn with
      | none => rfl
      | some x => exact rxAccept_withSched { s with lineByte := none } es P x

theorem clock_withSched (d : Rat) : (s.withSched es).clock d = (s.clock d).withSched es := by
  unfold State.clock; split <;> rfl

theorem rstAssert_withSched : (s.withSched es).rstAssert = s.rstAssert.withSched es := by
  cases h : s.rst <;> simp [State.rstAssert, h, State.withSched]

theorem rstRelease_withSched (P : Config.Params) : (s.withSched es).rstRelease P = (s.rstRelease P).withSched es := by
  cases h : s.rst <;> simp [State.rstRelease, h, State.withSched]

/-- What an agent's step does does not depend on the steps still to be taken, and it leaves them as they are. -/
theorem agentStep_withSched (P : Config.Params) (e : Event) :
    agentStep P e (s.withSched es) = (agentStep P e s).withSched es := by
  cases e with
  | host p bs => simp only [agentStep, hostBytes_withSched, Result.withSched_next]
  | port p => exact portStep_withSched s es p
  | grant p => simp only [agentStep, grant_withSched, Result.withSched_next]
  | phaseEnd => simp only [agentStep, phaseEnd_withSched, Result.withSched_next]
  | lineStart => simp only [agentStep, lineStart_withSched, Result.withSched_next]
  | lineStop v framing drawn => simp only [agentStep, lineStop_withSched, Result.withSched_next]
  | clock d => simp only [agentStep, clock_withSched, Result.withSched_next]
  | rstAssert => simp only [agentStep, rstAssert_withSched, Result.withSched_next]
  | rstRelease => simp only [agentStep, rstRelease_withSched, Result.withSched_next]

end

/-! ### Steps and runs -/

/-- A step of the machine takes the first step scheduled. -/
theorem step_withSched_cons (s : State) (e : Event) (es : List Event) :
    step (s.withSched (e :: es)) = (agentStep Config.params e s).withSched es :=
  agentStep_withSched s es Config.params e

/-- The run of a schedule, from a state whose own schedule does not matter. -/
theorem run_withSched (es : List Event) (s : State) :
    Host.Core.run Sys2Proof.core es.length (s.withSched es) = runEvents Config.params es (s.withSched []) := by
  induction es generalizing s with
  | nil => rfl
  | cons e es ih =>
    have hcore : Sys2Proof.core.step (s.withSched (e :: es)) = (agentStep Config.params e s).withSched es :=
      step_withSched_cons s e es
    simp only [List.length_cons, Host.Core.run, hcore, runEvents, agentStep_withSched]
    cases agentStep Config.params e s with
    | next t => exact ih t
    | fault r => rfl
    | refused r => rfl

/-- Settles O7, by induction on the schedule: no agent's step reads or changes what is still scheduled. -/
theorem runIsItsScheduledSteps : Obligations.RunIsItsScheduledSteps := by
  rintro s es rfl
  exact run_withSched s.sched s

/-! ## The parser's buffer -/

/-- A buffer that meets R153 is shorter than PARSER_CAP (R10, R30). -/
theorem length_le_of_bufferOk {b : Bytes} (h : bufferOk b = true) : b.length ≤ 63 := by
  match b with
  | [] => simp
  | [x] => simp
  | x :: l :: rest =>
    simp only [bufferOk, Bool.and_eq_true, decide_eq_true_eq] at h
    obtain ⟨⟨-, hmax⟩, hrest⟩ := h
    have hmax : l.toNat ≤ 62 := hmax
    simp only [List.length_cons]
    omega

/-- What is left after the garbage starts with a sync byte. -/
theorem isSync_of_dropWhile_eq_cons {b rest : Bytes} {x : Byte} (h : b.dropWhile (fun y => !isSync y) = x :: rest) :
    isSync x = true := by
  have hx := List.head?_dropWhile_not (fun y => !isSync y) b
  simpa [h] using hx

/-- What the scan keeps meets R153, whatever it was given. -/
theorem bufferOk_parserScan (b : Bytes) : bufferOk (parserScan b).buf = true := by
  induction hn : b.length using Nat.strong_induction_on generalizing b with
  | _ n ih =>
    subst hn
    have hd := length_dropWhile_le' (fun x => !isSync x) b
    rw [parserScan_eq]
    cases h : b.dropWhile (fun x => !isSync x) with
    | nil => rfl
    | cons x d =>
      have hx := isSync_of_dropWhile_eq_cons h
      cases d with
      | nil => simpa [bufferOk] using hx
      | cons l rest =>
        simp only [h, List.length_cons] at hd
        have hskip : bufferOk (parserScan (l :: rest)).buf = true := ih _ (by simp only [List.length_cons]; omega) _ rfl
        have htake : bufferOk (parserScan (rest.drop l.toNat)).buf = true :=
          ih _ (by simp only [List.length_drop]; omega) _ rfl
        dsimp only
        split
        · exact hskip
        · split
          · simp only [bufferOk, hx, Bool.true_and, Bool.and_eq_true, decide_eq_true_eq]
            omega
          · split <;> exact htake

/-- Settles O25: the buffer is what the scan keeps, and R153 bounds it. -/
theorem parserBufferBounded : Obligations.ParserBufferBounded := by
  intro buf chunk
  have h : bufferOk (parserPush buf chunk).buf = true := bufferOk_parserScan (buf ++ chunk)
  exact ⟨h, length_le_of_bufferOk h⟩

/-! ## The release of RST -/

/-- There are N_PORTS ports after reset, all in the state of R301. -/
theorem resetWith_ports (P : Config.Params) : (State.resetWith P).ports = List.replicate P.nPorts Port.reset := by
  have hpos := P.nPorts_pos
  rw [← Nat.sub_add_cancel hpos, List.replicate_succ]
  rfl

/-- RST is released under RST: the state after reset, but for the time and what is outside the block. -/
theorem rstRelease_eq {s : State} (h : s.rst = true) (P : Config.Params) :
    s.rstRelease P =
      { State.resetWith P with
        deadline := s.now + (P.settleReset.toNat : Rat)
        now := s.now
        cur := s.cur
        lineByte := s.lineByte
        sched := s.sched
        answers := s.answers
        wire := s.wire
        edges := s.edges } := by
  rw [State.rstRelease, if_pos h]

/-- SETTLE_US after reset holds SETTLE_RESET in its low half. -/
theorem resetWith_settleUs_toNat (P : Config.Params) :
    (State.resetWith P).settleUs.toNat = P.settleReset.toNat :=
  BitVec.toNat_setWidth_of_le (by decide)

/-- Settles O57: each element is read off the state of R301. -/
theorem resetReleaseState : Obligations.ResetReleaseState := by
  intro P s hrst
  refine ⟨_, rfl, ?_⟩
  rw [rstRelease_eq hrst]
  refine ⟨rfl, ?_, ?_, rfl, rfl, resetWith_settleUs_toNat P, rfl, rfl, rfl, rfl, rfl, rfl, rfl, rfl, rfl, rfl, rfl,
    rfl, rfl⟩
  · simp [resetWith_ports]
  · intro q hq
    obtain rfl : q = Port.reset := by
      simp only [resetWith_ports] at hq
      exact List.eq_of_mem_replicate hq
    exact ⟨rfl, rfl, rfl, rfl⟩

end Sys2Proof.Machine

namespace Sys2Proof.Machine

/-! ## What a command does, by instruction

`Ends` says what an answered command can write; `Effect` says which command writes it, and with what. -/

/-- `Effect s q i t`: the command `i` of port `cur`, whose record is `q`, leads from `s` to `t`. -/
inductive Effect (s : State) (q : Port) : Instr → State → Prop where
  | request {i : Instr} {r : Request} (h : requestOf i = some r) : Effect s q i (s.pendWith q r)
  | answer (i : Instr) (resp : Response) : Effect s q i (s.ended { q with cmd := none } resp)
  | crcClear (arg : Byte) (din : Bytes) (resp : Response) :
      Effect s q (.crcClear arg din) (s.ended { q with crc := 0x00, cmd := none } resp)
  | crcFeed (arg : Byte) (din : Bytes) (resp : Response) :
      Effect s q (.crcFeed arg din) (s.ended { q with crc := crc8From q.crc din, cmd := none } resp)
  | parserPush (arg : Byte) (din : Bytes) (j : ParserId) (resp : Response) :
      Effect s q (.parserPush arg din)
        ((s.setPbuf j (Machine.parserPush (s.pbuf j) din).buf).ended { q with cmd := none } resp)
  | parserReset (arg : Byte) (din : Bytes) (j : ParserId) (resp : Response) :
      Effect s q (.parserReset arg din) ((s.setPbuf j []).ended { q with cmd := none } resp)
  | status {din : Bytes} (h : din.length = 4) (resp : Response) :
      Effect s q (.cfgWrite 0x03 din) ((s.writeStatus (wordOperand din)).ended { q with cmd := none } resp)

/-- The served port is there, and `i` has led from `s` to `t`. -/
def Executed (i : Instr) (s t : State) : Prop := ∃ q, s.ports[s.cur]? = some q ∧ Effect s q i t

section
variable {s t : State}

theorem respond_executed (i : Instr) {st : Status} {aux : Byte} {dout : Bytes} (h : respond st aux dout s = .next t) :
    Executed i s t := by
  obtain ⟨q, hq, rfl⟩ := respond_next h
  exact ⟨q, hq, .answer i _⟩

theorem raise_executed (i : Instr) {e : Status} (h : raise e s = .next t) : Executed i s t := respond_executed i h

theorem request_executed {i : Instr} {r : Request} (hr : requestOf i = some r) (h : request r s = .next t) :
    Executed i s t := by
  obtain ⟨q, hq, rfl⟩ := request_next h
  exact ⟨q, hq, .request hr⟩

/-- All that an answer after a write of the accumulator can do. -/
theorem respond_setCurCrc_next {st : Status} {aux c : Byte} {dout : Bytes}
    (h : respond st aux dout (s.setCurCrc c) = .next t) :
    ∃ q, s.ports[s.cur]? = some q ∧ t = s.ended { q with crc := c, cmd := none } ⟨st, aux, dout⟩ := by
  cases hq : s.ports[s.cur]? with
  | none => simp [respond, hq] at h
  | some q =>
    rw [respond_setCurCrc hq] at h
    exact ⟨q, rfl, (Host.Outcome.next.inj h).symm⟩

/-- All that an answer after a write of a parser buffer can do. -/
theorem respond_setPbuf_next {st : Status} {aux : Byte} {dout b : Bytes} {j : ParserId}
    (h : respond st aux dout (s.setPbuf j b) = .next t) :
    ∃ q, s.ports[s.cur]? = some q ∧ t = (s.setPbuf j b).ended { q with cmd := none } ⟨st, aux, dout⟩ := by
  simpa using respond_next h

/-! ### Each meaning -/

theorem execNop_executed (i : Instr) {arg : Byte} {din : Bytes} (h : execNop arg din s = .next t) :
    Executed i s t := by
  unfold execNop at h; split at h
  · exact raise_executed i h
  · exact respond_executed i h

theorem execCrcClear_executed {arg : Byte} {din : Bytes} (h : execCrcClear arg din s = .next t) :
    Executed (.crcClear arg din) s t := by
  unfold execCrcClear at h; split at h
  · exact raise_executed _ h
  · obtain ⟨q, hq, rfl⟩ := respond_setCurCrc_next h
    exact ⟨q, hq, .crcClear arg din _⟩

theorem execCrcFeed_executed {arg : Byte} {din : Bytes} (h : execCrcFeed arg din s = .next t) :
    Executed (.crcFeed arg din) s t := by
  unfold execCrcFeed at h; split at h
  · exact raise_executed _ h
  · obtain ⟨q, hq, rfl⟩ := respond_setCurCrc_next h
    rw [curCrc_eq hq]
    exact ⟨q, hq, .crcFeed arg din _⟩

theorem execCrcRead_executed (i : Instr) {arg : Byte} {din : Bytes} (h : execCrcRead arg din s = .next t) :
    Executed i s t := by
  unfold execCrcRead at h; split at h
  · exact raise_executed i h
  · exact respond_executed i h

theorem execFrameEncode_executed (i : Instr) {arg : Byte} {din : Bytes} (h : execFrameEncode arg din s = .next t) :
    Executed i s t := by
  unfold execFrameEncode at h; split at h
  · exact raise_executed i h
  · split at h
    · exact raise_executed i h
    · exact respond_executed i h

theorem execFrameDecode_executed (i : Instr) {arg : Byte} {din : Bytes} (h : execFrameDecode arg din s = .next t) :
    Executed i s t := by
  unfold execFrameDecode at h; split at h
  · exact raise_executed i h
  · split at h
    · exact raise_executed i h
    · exact respond_executed i h

theorem execParserPush_executed {arg : Byte} {din : Bytes} (h : execParserPush arg din s = .next t) :
    Executed (.parserPush arg din) s t := by
  unfold execParserPush at h; split at h
  · exact raise_executed _ h
  · split at h
    · exact raise_executed _ h
    · obtain ⟨q, hq, rfl⟩ := respond_setPbuf_next h
      exact ⟨q, hq, .parserPush arg din _ _⟩

theorem execParserReset_executed {arg : Byte} {din : Bytes} (h : execParserReset arg din s = .next t) :
    Executed (.parserReset arg din) s t := by
  unfold execParserReset at h; split at h
  · exact raise_executed _ h
  · split at h
    · exact raise_executed _ h
    · obtain ⟨q, hq, rfl⟩ := respond_setPbuf_next h
      exact ⟨q, hq, .parserReset arg din _ _⟩

theorem execParserLevel_executed (i : Instr) {arg : Byte} {din : Bytes} (h : execParserLevel arg din s = .next t) :
    Executed i s t := by
  unfold execParserLevel at h; split at h
  · exact raise_executed i h
  · split at h
    · exact raise_executed i h
    · exact respond_executed i h

theorem execEnvEncode_executed (i : Instr) {arg : Byte} {din : Bytes} (h : execEnvEncode arg din s = .next t) :
    Executed i s t := by
  unfold execEnvEncode at h; split at h
  · exact raise_executed i h
  · split at h
    · exact raise_executed i h
    · split at h
      · exact raise_executed i h
      · exact respond_executed i h

theorem execEnvDecode_executed (i : Instr) {arg : Byte} {din : Bytes} (h : execEnvDecode arg din s = .next t) :
    Executed i s t := by
  unfold execEnvDecode at h; split at h
  · exact raise_executed i h
  · split at h
    · exact raise_executed i h
    · exact respond_executed i h

theorem execXcvrSend_executed {arg : Byte} {din : Bytes} (h : execXcvrSend arg din s = .next t) :
    Executed (.xcvrSend arg din) s t := by
  unfold execXcvrSend at h; split at h
  · exact raise_executed _ h
  · exact request_executed (if_pos (not_not.1 ‹_›)) h

theorem execXcvrRecv_executed {arg : Byte} {m : Half} (h : execXcvrRecv arg m s = .next t) :
    Executed (.xcvrRecv arg m) s t := by
  unfold execXcvrRecv at h; split at h
  · exact raise_executed _ h
  · exact request_executed (if_pos (not_not.1 ‹_›)) h

theorem execCfgRead_executed (i : Instr) {arg : Byte} {din : Bytes} (h : execCfgRead arg din s = .next t) :
    Executed i s t := by
  unfold execCfgRead at h; split at h
  · exact raise_executed i h
  · split at h
    · exact raise_executed i h
    · exact respond_executed i h

/-- The register an ARG names tells the ARG. -/
theorem regArg_eq_some {arg : Byte} {r : RegIndex} (h : regArg arg = some r) :
    (arg = 0x00 ∧ r = .ctrl) ∨ (arg = 0x01 ∧ r = .baud) ∨ (arg = 0x02 ∧ r = .settleUs) ∨
      (arg = 0x03 ∧ r = .status) := by
  unfold regArg at h
  split at h
  · exact .inl ⟨‹_›, (Option.some.inj h).symm⟩
  · split at h
    · exact .inr (.inl ⟨‹_›, (Option.some.inj h).symm⟩)
    · split at h
      · exact .inr (.inr (.inl ⟨‹_›, (Option.some.inj h).symm⟩))
      · split at h
        · exact .inr (.inr (.inr ⟨‹_›, (Option.some.inj h).symm⟩))
        · cases h

theorem execCfgWrite_executed {arg : Byte} {din : Bytes} (h : execCfgWrite arg din s = .next t) :
    Executed (.cfgWrite arg din) s t := by
  unfold execCfgWrite at h; split at h
  · exact raise_executed _ h
  · rename_i r hr
    split at h
    · exact raise_executed _ h
    · rename_i hl
      have hl : din.length = 4 := not_not.1 hl
      obtain ⟨rfl, rfl⟩ | ⟨rfl, rfl⟩ | ⟨rfl, rfl⟩ | ⟨rfl, rfl⟩ := regArg_eq_some hr <;> dsimp only at h
      · exact request_executed (by simp [requestOf, hl]) h
      · split at h
        · exact raise_executed _ h
        · rename_i hv
          have hv : wordOperand din ≠ 0#32 := hv
          exact request_executed (by simp [requestOf, hl, hv]) h
      · exact request_executed (by simp [requestOf, hl]) h
      · obtain ⟨q, hq, rfl⟩ := respond_next h
        exact ⟨q, hq, .status hl _⟩

/-- All that a command with a next state can have done. -/
theorem exec_executed {i : Instr} (h : exec i s = .next t) : Executed i s t := by
  cases i with
  | nop a d => exact execNop_executed _ h
  | crcClear a d => exact execCrcClear_executed h
  | crcFeed a d => exact execCrcFeed_executed h
  | crcRead a d => exact execCrcRead_executed _ h
  | frameEncode a d => exact execFrameEncode_executed _ h
  | frameDecode a d => exact execFrameDecode_executed _ h
  | parserPush a d => exact execParserPush_executed h
  | parserReset a d => exact execParserReset_executed h
  | parserLevel a d => exact execParserLevel_executed _ h
  | envEncode a d => exact execEnvEncode_executed _ h
  | envDecode a d => exact execEnvDecode_executed _ h
  | xcvrSend a d => exact execXcvrSend_executed h
  | xcvrRecv a m => exact execXcvrRecv_executed h
  | cfgRead a d => exact execCfgRead_executed _ h
  | cfgWrite a d => exact execCfgWrite_executed h
  | reserved o a d => exact raise_executed _ h

end

/-! ### What no command changes -/

/-- What no command changes from `s` to `t`: the other ports, what is outside the block, and the shared state but for
the parser buffers and RX_OVF. -/
structure CommandKeeps (s t : State) : Prop where
  others : ∀ p, p ≠ s.cur → t.ports[p]? = s.ports[p]?
  count : t.ports.length = s.ports.length
  outside : SameOutside s t
  ctrl : t.ctrl = s.ctrl
  baud : t.baud = s.baud
  settleUs : t.settleUs = s.settleUs
  rxfifo : t.rxfifo = s.rxfifo
  phase : t.phase = s.phase
  deadline : t.deadline = s.deadline
  owner : t.owner = s.owner
  txq : t.txq = s.txq
  txmask : t.txmask = s.txmask

/-- A command writes its port's record, the answers, the parser buffers and RX_OVF, at most. -/
theorem commandKeeps_writes (s : State) (q : Port) (as : List Answer) (b0 b1 : Bytes) (ovf : Bool) :
    CommandKeeps s
      { s with ports := s.ports.set s.cur q, answers := as, pbuf0 := b0, pbuf1 := b1, rxOvf := ovf } where
  others _ hp := List.getElem?_set_ne hp.symm
  count := List.length_set
  outside := ⟨rfl, rfl, rfl, rfl, rfl, rfl, rfl⟩
  ctrl := rfl
  baud := rfl
  settleUs := rfl
  rxfifo := rfl
  phase := rfl
  deadline := rfl
  owner := rfl
  txq := rfl
  txmask := rfl

theorem setPbuf_ended_keeps (s : State) (j : ParserId) (b : Bytes) (q : Port) (r : Response) :
    CommandKeeps s ((s.setPbuf j b).ended q r) := by
  cases j <;> exact commandKeeps_writes s q _ _ _ _

theorem exec_keeps {i : Instr} {s t : State} (h : exec i s = .next t) : CommandKeeps s t := by
  obtain ⟨q, -, hE⟩ := exec_executed h
  cases hE with
  | request _ => exact commandKeeps_writes s _ _ _ _ _
  | answer _ _ => exact commandKeeps_writes s _ _ _ _ _
  | crcClear _ _ _ => exact commandKeeps_writes s _ _ _ _ _
  | crcFeed _ _ _ => exact commandKeeps_writes s _ _ _ _ _
  | parserPush _ _ j _ => exact setPbuf_ended_keeps s j _ _ _
  | parserReset _ _ j _ => exact setPbuf_ended_keeps s j _ _ _
  | status _ _ => exact commandKeeps_writes s _ _ _ _ _

/-- Only `CFG_WRITE` to STATUS writes RX_OVF, and only to clear it (R32, R257). -/
theorem exec_rxOvf {i : Instr} {s t : State} (h : exec i s = .next t) :
    t.rxOvf = s.rxOvf ∨
    ∃ din, i = .cfgWrite 0x03 din ∧ din.length = 4 ∧ t.rxOvf = (s.rxOvf && !(wordOperand din).getLsbD 2) := by
  obtain ⟨q, -, hE⟩ := exec_executed h
  cases hE with
  | request _ => exact .inl rfl
  | answer _ _ => exact .inl rfl
  | crcClear _ _ _ => exact .inl rfl
  | crcFeed _ _ _ => exact .inl rfl
  | parserPush _ _ j _ => exact .inl (by simp)
  | parserReset _ _ j _ => exact .inl (by simp)
  | @status din hl _ => exact .inr ⟨din, rfl, hl, rfl⟩

/-- Settles O10, from the frame of every command's effect. -/
theorem commandFrame : Obligations.CommandFrame := by
  intro i s t h
  have k := exec_keeps h
  refine ⟨k.others, k.count, k.outside, k.ctrl, k.baud, k.settleUs, k.rxfifo, k.phase, k.deadline, k.owner, k.txq,
    k.txmask, ?_⟩
  obtain hovf | ⟨din, rfl, -, -⟩ := exec_rxOvf h
  · exact .inl hovf
  · exact .inr ⟨din, rfl⟩

/-! ### The pure commands -/

/-- The commands that write nothing but their answer: NOP, the reads and the four codec commands (R56). -/
def isPure : Instr → Bool
  | .nop _ _ | .crcRead _ _ | .frameEncode _ _ | .frameDecode _ _ => true
  | .parserLevel _ _ | .envEncode _ _ | .envDecode _ _ | .cfgRead _ _ => true
  | .crcClear _ _ | .crcFeed _ _ | .parserPush _ _ | .parserReset _ _ => false
  | .xcvrSend _ _ | .xcvrRecv _ _ | .cfgWrite _ _ | .reserved _ _ _ => false

theorem requestOf_of_isPure {i : Instr} (h : isPure i = true) : requestOf i = none := by
  cases i with
  | xcvrSend _ _ => cases h
  | xcvrRecv _ _ => cases h
  | cfgWrite _ _ => cases h
  | _ => rfl

/-- A pure command with a next state has been answered, and that is all. -/
theorem exec_of_isPure {i : Instr} {s t : State} {q : Port} (hq : s.ports[s.cur]? = some q)
    (hi : isPure i = true) (h : exec i s = .next t) : ∃ resp, t = s.ended { q with cmd := none } resp := by
  obtain ⟨q', hq', hE⟩ := exec_executed h
  obtain rfl : q = q' := Option.some.inj (hq.symm.trans hq')
  cases hE with
  | request hr => simp [requestOf_of_isPure hi] at hr
  | answer _ resp => exact ⟨resp, rfl⟩
  | crcClear _ _ _ => cases hi
  | crcFeed _ _ _ => cases hi
  | parserPush _ _ _ _ => cases hi
  | parserReset _ _ _ _ => cases hi
  | status _ _ => cases hi

/-- Settles O11: each of the eight commands is pure. -/
theorem readsAndCodecsArePure : Obligations.ReadsAndCodecsArePure := by
  rintro arg din s t q hq (h | h | h | h | h | h | h | h) <;> exact exec_of_isPure hq rfl h

/-! ## A port's step -/

/-- A free port with a whole command takes it (R76). -/
theorem fetch_eq {s : State} {p : Nat} {q : Port} {i : Instr} {rest : Bytes} (hr : s.rst = false)
    (hq : s.ports[p]? = some q) (hc : q.cmd = none) (hd : decode q.inbuf = .ok (i, rest)) :
    s.fetch p = some (i, { s with cur := p, ports := s.ports.set p { q with inbuf := rest, cmd := some i } }) := by
  simp [State.fetch, hr, hq, hc, hd]

/-- A port holds while its command is outstanding, or not yet whole (R36, R76). -/
theorem fetch_eq_none {s : State} {p : Nat} {q : Port} (hq : s.ports[p]? = some q)
    (hold : q.cmd.isSome = true ∨ ∃ e, decode q.inbuf = .error e) : s.fetch p = none := by
  cases hf : s.fetch p with
  | none => rfl
  | some r =>
    obtain ⟨q', rest, -, hq', hc, hd, -⟩ := fetch_eq_some (i := r.1) (u := r.2) hf
    obtain rfl : q = q' := Option.some.inj (hq.symm.trans hq')
    obtain hcmd | ⟨e, he⟩ := hold
    · simp [hc] at hcmd
    · simp [hd] at he

/-- All that a port's step can do: hold, or execute the command it has taken. -/
theorem portStep_cases {s t : State} {p : Nat} (h : s.portStep p = .next t) :
    t = s ∨ ∃ i u, s.fetch p = some (i, u) ∧ exec i u = .next t := by
  unfold State.portStep at h
  cases hf : s.fetch p with
  | none => exact .inl (by simpa [hf] using h.symm)
  | some r => exact .inr ⟨r.1, r.2, rfl, by simpa [hf] using h⟩

/-- When a port moves next, the step is that port's. -/
theorem step_port {s : State} {p : Nat} {es : List Event} (h : s.sched = .port p :: es) :
    step s = (s.withSched es).portStep p := by
  simp only [step, stepWith, h]; rfl

/-- Settles O5: the port fetches its command, and the step executes it. -/
theorem stepRunsDecodedCommand : Obligations.StepRunsDecodedCommand := by
  intro s p q i rest es hsched hr hq hc hd
  have hf := fetch_eq (s := s.withSched es) hr hq hc hd
  rw [step_port hsched, State.portStep, hf]
  rfl

/-- Settles O6: a supply of bytes by the cases of `hostBytes`, and a port with nothing to fetch. -/
theorem portHolds : Obligations.PortHolds := by
  refine ⟨fun P s p bs => ⟨fun hr q hq => ?_, fun hr => ?_⟩, fun s p q es hsched hq hold => ?_⟩
  · simp [agentStep, State.hostBytes, hr, State.modPort, modify_eq_set hq]
  · simp [agentStep, State.hostBytes, hr]
  · have hf : (s.withSched es).fetch p = none := fetch_eq_none hq hold
    rw [step_port hsched, State.portStep, hf]
    rfl

/-! ## Who moves the line -/

/-- The arbiter's state, the outputs and their record, and the level of RST are the same in `s` and `t`. -/
structure SameArbiter (s t : State) : Prop where
  phase : t.phase = s.phase
  owner : t.owner = s.owner
  txq : t.txq = s.txq
  txmask : t.txmask = s.txmask
  deadline : t.deadline = s.deadline
  rst : t.rst = s.rst
  edges : t.edges = s.edges
  wire : t.wire = s.wire

theorem SameArbiter.refl (s : State) : SameArbiter s s := ⟨rfl, rfl, rfl, rfl, rfl, rfl, rfl, rfl⟩

/-! ### The direction outputs are functions of PHASE and RST -/

section
variable {s t : State} (h : SameArbiter s t)
include h

theorem SameArbiter.rxe : t.rxe = s.rxe := by simp only [State.rxe, h.rst, h.phase]

theorem SameArbiter.txe : t.txe = s.txe := by simp only [State.txe, h.rst, h.phase]

theorem SameArbiter.dir : t.dir = s.dir := by simp only [State.dir, h.rst, h.phase]

end

theorem rxe_eq {s : State} (h : s.rst = false) : s.rxe = s.phase.rxe := by simp [State.rxe, h]

theorem txe_eq {s : State} (h : s.rst = false) : s.txe = s.phase.txe := by simp [State.txe, h]

theorem dir_eq {s : State} (h : s.rst = false) : s.dir = s.phase.dir := by simp [State.dir, h]

/-- Settles O43, by the table of R34. -/
theorem outputsFollowPhase : Obligations.OutputsFollowPhase := by
  intro P s hr
  rw [rxe_eq hr, txe_eq hr, dir_eq hr]
  refine ⟨?_, ?_, ?_, ?_, fun h2 => ?_, fun h1 => ?_⟩
  · cases s.phase <;> simp [Phase.rxe]
  · cases s.phase <;> simp [Phase.txe]
  · cases s.phase <;> simp [Phase.dir, Phase.txe]
  · cases s.phase <;> simp [Phase.dir, Phase.rxe]
  · simp [State.pins, h2, rxe_eq hr, txe_eq hr]
  · simp [State.pins, h1, txe_eq hr]

/-! ### The agents that leave the arbiter alone -/

theorem hostBytes_sameArbiter (s : State) (p : Nat) (bs : Bytes) : SameArbiter s (s.hostBytes p bs) := by
  obtain ⟨h, -⟩ | ⟨q, -, -, h⟩ := hostBytes_cases s p bs <;> rw [h]
  · exact .refl s
  · exact ⟨rfl, rfl, rfl, rfl, rfl, rfl, rfl, rfl⟩

theorem exec_sameArbiter {i : Instr} {s t : State} (h : exec i s = .next t) : SameArbiter s t := by
  have k := exec_keeps h
  obtain ⟨-, hrst, -, -, -, hwire, hedges⟩ := k.outside
  exact ⟨k.phase, k.owner, k.txq, k.txmask, k.deadline, hrst, hedges, hwire⟩

/-- The state in which a command is executed differs in the port served and its record alone. -/
theorem exec_of_fetch_keeps {s u t : State} {p : Nat} {i : Instr} (hf : s.fetch p = some (i, u))
    (hx : exec i u = .next t) : SameArbiter s t ∧ t.now = s.now := by
  obtain ⟨q, rest, -, -, -, -, rfl⟩ := fetch_eq_some hf
  obtain ⟨hnow, -⟩ := (exec_keeps hx).outside
  obtain ⟨h1, h2, h3, h4, h5, h6, h7, h8⟩ := exec_sameArbiter hx
  exact ⟨⟨h1, h2, h3, h4, h5, h6, h7, h8⟩, hnow⟩

theorem portStep_sameArbiter {s t : State} {p : Nat} (h : s.portStep p = .next t) : SameArbiter s t := by
  obtain rfl | ⟨i, u, hf, hx⟩ := portStep_cases h
  · exact .refl t
  · exact (exec_of_fetch_keeps hf hx).1

theorem lineStart_sameArbiter (s : State) : SameArbiter s s.lineStart := by
  unfold State.lineStart
  split
  · exact .refl s
  · exact ⟨rfl, rfl, rfl, rfl, rfl, rfl, rfl, rfl⟩

theorem lineStop_sameArbiter (P : Config.Params) (s : State) (v : Byte) (framing : Bool) (drawn : Option Byte) :
    SameArbiter s (s.lineStop P v framing drawn) := by
  obtain h | h | ⟨x, -, -, h⟩ := lineStop_cases P s v framing drawn <;> rw [h]
  · exact .refl s
  · exact ⟨rfl, rfl, rfl, rfl, rfl, rfl, rfl, rfl⟩
  · constructor <;> simp

theorem clock_sameArbiter (s : State) (d : Rat) : SameArbiter s (s.clock d) := by constructor <;> simp

/-- Only a grant, the end of a phase and a change of RST are not among these steps. -/
theorem agentStep_sameArbiter {P : Config.Params} {e : Event} {s t : State} (h : agentStep P e s = .next t)
    (hgrant : ∀ p, e ≠ .grant p) (hend : e ≠ .phaseEnd) (hassert : e ≠ .rstAssert) (hrelease : e ≠ .rstRelease) :
    SameArbiter s t := by
  cases e with
  | host p bs => cases h; exact hostBytes_sameArbiter s p bs
  | port p => exact portStep_sameArbiter h
  | grant p => exact absurd rfl (hgrant p)
  | phaseEnd => exact absurd rfl hend
  | lineStart => cases h; exact lineStart_sameArbiter s
  | lineStop v framing drawn => cases h; exact lineStop_sameArbiter P s v framing drawn
  | clock d => cases h; exact clock_sameArbiter s d
  | rstAssert => exact absurd rfl hassert
  | rstRelease => exact absurd rfl hrelease

/-- Settles O44, agent by agent. -/
theorem onlyArbiterMovesTheLine : Obligations.OnlyArbiterMovesTheLine := by
  intro P e s t h hgrant hend hassert hrelease
  have k := agentStep_sameArbiter h hgrant hend hassert hrelease
  exact ⟨k.phase, k.owner, k.txq, k.txmask, k.deadline, k.rxe, k.txe, k.dir, k.edges, k.wire⟩

/-! ## Reception -/

/-- RXE, phase by phase (R34). -/
theorem Phase.rxe_iff (ph : Phase) : ph.rxe = true ↔ ph = .idle ∨ ph = .rxSettle := by cases ph <;> simp [Phase.rxe]

theorem Phase.rxe_eq_false_iff (ph : Phase) : ph.rxe = false ↔ ph = .txSettle ∨ ph = .txData := by
  cases ph <;> simp [Phase.rxe]

/-- A start bit on a free line outside reset. -/
theorem lineStart_eq {s : State} (hr : s.rst = false) (hl : s.lineByte = none) :
    s.lineStart = { s with lineByte := some (if s.phase.rxe then .whole else .late) } := by
  simp [State.lineStart, hl, hr, rxe_eq hr]

/-- A stop bit outside reset, with RXE = 0. -/
theorem lineStop_of_rxe_false {P : Config.Params} {s : State} {w : RxWatch} {v : Byte} {framing : Bool}
    {drawn : Option Byte} (hr : s.rst = false) (hl : s.lineByte = some w) (hx : s.phase.rxe = false) :
    s.lineStop P v framing drawn = { s with lineByte := none } := by
  simp [State.lineStop, hl, hr, rxe_eq hr, hx]

/-- A stop bit outside reset, with RXE = 1, when nothing is received. -/
theorem lineStop_of_received_none {P : Config.Params} {s : State} {w : RxWatch} {v : Byte} {framing : Bool}
    {drawn : Option Byte} (hr : s.rst = false) (hl : s.lineByte = some w) (hx : s.phase.rxe = true)
    (hv : received w v framing drawn = none) : s.lineStop P v framing drawn = { s with lineByte := none } := by
  simp [State.lineStop, hl, hr, rxe_eq hr, hx, hv]

/-- A stop bit outside reset, with RXE = 1, when the byte `x` is received. -/
theorem lineStop_of_received_some {P : Config.Params} {s : State} {w : RxWatch} {v x : Byte} {framing : Bool}
    {drawn : Option Byte} (hr : s.rst = false) (hl : s.lineByte = some w) (hx : s.phase.rxe = true)
    (hv : received w v framing drawn = some x) :
    s.lineStop P v framing drawn = ({ s with lineByte := none } : State).rxAccept P x := by
  simp [State.lineStop, hl, hr, rxe_eq hr, hx, hv]

/-- What becomes of a byte that is taken (R31, R32). -/
theorem rxAccept_taken (P : Config.Params) (s : State) (x : Byte) :
    (s.rxfifo.length < P.rxFifoDepth → s.rxAccept P x = { s with rxfifo := s.rxfifo ++ [x] }) ∧
    (P.rxFifoDepth ≤ s.rxfifo.length → s.rxAccept P x = { s with rxOvf := true }) :=
  ⟨fun h => if_pos h, fun h => if_neg (Nat.not_lt.2 h)⟩

/-- Settles O45: the start bit, the grant of a send, and the stop bit by RXE and by how the byte was seen. -/
theorem receptionOfAByte : Obligations.ReceptionOfAByte := by
  intro P s hr
  refine ⟨fun hl => ⟨fun hp => ?_, fun hp => ?_⟩, fun p d hi hp hl => ?_, fun w v framing drawn hl => ?_⟩
  · simp [agentStep, lineStart_eq hr hl, (Phase.rxe_iff _).2 hp]
  · simp [agentStep, lineStart_eq hr hl, (Phase.rxe_eq_false_iff _).2 hp]
  · obtain ⟨q, hq, hqp⟩ := port_of_pend hp
    exact ⟨s.grantSend p d, by rw [agentStep, grant_eq hr hi hq hqp]; rfl, rfl, by simp [hl, RxWatch.onRxeFall]⟩
  · intro t taken
    refine ⟨_, rfl, fun hp => lineStop_of_rxe_false hr hl ((Phase.rxe_eq_false_iff _).2 hp), fun hp => ?_⟩
    have hx : s.phase.rxe = true := (Phase.rxe_iff _).2 hp
    have htaken {x : Byte} (hv : received w v framing drawn = some x) : taken x (s.lineStop P v framing drawn) := by
      rw [lineStop_of_received_some hr hl hx hv]
      exact rxAccept_taken P t x
    refine ⟨fun hw hf => htaken (by simp [received, hw, hf]),
      fun hw => lineStop_of_received_none hr hl hx (by simp [received, hw]), fun hw => ?_⟩
    have hdrawn : received w v framing drawn = drawn := by
      obtain rfl | ⟨rfl, rfl⟩ := hw <;> rfl
    exact ⟨fun hd => lineStop_of_received_none hr hl hx (hdrawn.trans hd), fun x hd => htaken (hdrawn.trans hd)⟩

/-! ## The overflow flag -/

/-- Bit 2 of a four-byte operand is bit 2 of its last byte (R73). -/
theorem wordOperand_getLsbD_two (b0 b1 b2 b3 : Byte) :
    (wordOperand [b0, b1, b2, b3]).getLsbD 2 = b3.getLsbD 2 := by
  simp only [wordOperand, be_quad, BitVec.getLsbD, BitVec.toNat_ofNat, Nat.testBit_eq_decide_div_mod_eq]
  congr 2
  omega

/-- A port's step clears RX_OVF by no other command than a write of STATUS with bit 2 set. -/
theorem portStep_clears_rxOvf {s t : State} {p : Nat} (h : s.portStep p = .next t) (hs : s.rxOvf = true)
    (ht : t.rxOvf = false) :
    ∃ (u : State) (b0 b1 b2 b3 : Byte),
      s.fetch p = some (.cfgWrite 0x03 [b0, b1, b2, b3], u) ∧ b3.getLsbD 2 = true := by
  obtain rfl | ⟨i, u, hf, hx⟩ := portStep_cases h
  · simp [hs] at ht
  · have hu : u.rxOvf = true := by
      obtain ⟨q, rest, -, -, -, -, rfl⟩ := fetch_eq_some hf
      exact hs
    obtain hsame | ⟨din, rfl, hlen, hclear⟩ := exec_rxOvf hx
    · simp [hsame, hu] at ht
    · obtain ⟨b0, b1, b2, b3, rfl⟩ : ∃ b0 b1 b2 b3, din = [b0, b1, b2, b3] := List.length_eq_four.1 hlen
      refine ⟨u, b0, b1, b2, b3, hf, ?_⟩
      rw [hclear, hu, wordOperand_getLsbD_two] at ht
      simpa using ht

theorem serve_rxOvf (s : State) (p : Nat) (r : Request) : (s.serve p r).rxOvf = s.rxOvf := by
  cases r with
  | send d => rfl
  | recv m => rfl
  | cfgw reg v => simp [State.serve, State.grantCfgw]

theorem grant_rxOvf (s : State) (p : Nat) : (s.grant p).rxOvf = s.rxOvf := by
  obtain h | ⟨q, r, -, -, -, -, h⟩ := grant_cases s p <;> rw [h]
  exact serve_rxOvf s p r

theorem phaseEnd_rxOvf (P : Config.Params) (s : State) : (s.phaseEnd P).rxOvf = s.rxOvf := by
  obtain h | ⟨-, -, ⟨-, h⟩ | ⟨-, h⟩ | ⟨-, h⟩⟩ := phaseEnd_cases P s <;> simp [h]

theorem hostBytes_rxOvf (s : State) (p : Nat) (bs : Bytes) : (s.hostBytes p bs).rxOvf = s.rxOvf := by
  obtain ⟨h, -⟩ | ⟨q, -, -, h⟩ := hostBytes_cases s p bs <;> rw [h]

theorem lineStart_rxOvf (s : State) : s.lineStart.rxOvf = s.rxOvf := by
  unfold State.lineStart; split <;> rfl

/-- A byte of the peer sets RX_OVF, or leaves it (R32). -/
theorem lineStop_keeps_rxOvf {P : Config.Params} {s : State} {v : Byte} {framing : Bool} {drawn : Option Byte}
    (hs : s.rxOvf = true) : (s.lineStop P v framing drawn).rxOvf = true := by
  obtain h | h | ⟨x, -, -, h⟩ := lineStop_cases P s v framing drawn <;> rw [h]
  · exact hs
  · exact hs
  · obtain ⟨-, h⟩ | ⟨-, h⟩ := rxAccept_cases P { s with lineByte := none } x <;> rw [h]
    exact hs

theorem rstAssert_rxOvf (s : State) : s.rstAssert.rxOvf = s.rxOvf := by
  obtain ⟨-, h⟩ | ⟨-, h⟩ := rstAssert_cases s <;> rw [h]

/-- Settles O47: of the agents' steps, a port's and the release of RST alone clear RX_OVF. -/
theorem overflowClearedOnlyByHost : Obligations.OverflowClearedOnlyByHost := by
  intro P e s t h hs ht
  have kept {u : State} (hu : u.rxOvf = true) (he : (.next u : Result) = .next t) : False := by
    cases he
    simp [hu] at ht
  cases e with
  | port p =>
    obtain ⟨u, b0, b1, b2, b3, hf, hb⟩ := portStep_clears_rxOvf h hs ht
    exact .inl ⟨p, u, b0, b1, b2, b3, rfl, hf, hb⟩
  | rstRelease => exact .inr rfl
  | host p bs => exact (kept ((hostBytes_rxOvf s p bs).trans hs) h).elim
  | grant p => exact (kept ((grant_rxOvf s p).trans hs) h).elim
  | phaseEnd => exact (kept ((phaseEnd_rxOvf P s).trans hs) h).elim
  | lineStart => exact (kept ((lineStart_rxOvf s).trans hs) h).elim
  | lineStop v framing drawn => exact (kept (lineStop_keeps_rxOvf hs) h).elim
  | clock d => exact (kept ((State.clock_rxOvf s d).trans hs) h).elim
  | rstAssert => exact (kept ((rstAssert_rxOvf s).trans hs) h).elim

/-! ## Reading the registers -/

/-- ARG above 3 names no register (R28, R57). -/
theorem regArg_eq_none {arg : Byte} (h : 4 ≤ arg.toNat) : regArg arg = none := by
  cases hr : regArg arg with
  | none => rfl
  | some r =>
    obtain ⟨rfl, -⟩ | ⟨rfl, -⟩ | ⟨rfl, -⟩ | ⟨rfl, -⟩ := regArg_eq_some hr <;> simp at h

/-- `CFG_READ` of a register, with no operand bytes. -/
theorem exec_cfgRead_eq {s : State} {q : Port} (h : s.ports[s.cur]? = some q) {arg : Byte} {r : RegIndex}
    (hr : regArg arg = some r) : exec (.cfgRead arg []) s = .next (s.okWith q 0x00 (u32be (s.regval r))) := by
  simp only [exec, execCfgRead, hr, List.length_nil, ne_eq, not_true_eq_false, if_false]
  exact respond_eq h .ok 0x00 _

/-- `CFG_READ` refused. -/
theorem exec_cfgRead_eArg {s : State} {q : Port} (h : s.ports[s.cur]? = some q) {arg : Byte} {din : Bytes}
    (hbad : 4 ≤ arg.toNat ∨ din ≠ []) : exec (.cfgRead arg din) s = .next (s.errWith q .eArg) := by
  simp only [exec, execCfgRead]
  cases hr : regArg arg with
  | none => exact raise_eq h .eArg
  | some r =>
    have hd : din ≠ [] := hbad.resolve_left fun h4 => by simp [regArg_eq_none h4] at hr
    simpa [hd] using raise_eq h .eArg

/-! ### Each register as four bytes (R252) -/

/-- A word in two halves as four bytes. -/
theorem u32be_of_toNat {v : Word} {hi lo : Nat} (hlo : lo < 65536) (h : v.toNat = hi * 65536 + lo) :
    u32be v = [BitVec.ofNat 8 (hi / 256), BitVec.ofNat 8 hi, BitVec.ofNat 8 (lo / 256), BitVec.ofNat 8 lo] := by
  simp only [u32be, beBytes, h, List.cons.injEq, and_true]
  refine ⟨?_, ?_, ?_, ?_⟩ <;> apply BitVec.eq_of_toNat_eq <;> simp only [BitVec.toNat_ofNat] <;> omega

theorem regval_ctrl_bytes (s : State) :
    u32be (s.regval .ctrl) = [0x00, 0x00, 0x00, if s.ctrl.getLsbD 0 then 0x01 else 0x00] := by
  simp only [State.regval, State.invert]
  cases s.ctrl.getLsbD 0 <;> decide

theorem regval_settleUs_bytes (s : State) :
    u32be (s.regval .settleUs) = [0x00, 0x00, s.settleUs.extractLsb' 8 8, s.settleUs.extractLsb' 0 8] := by
  have hv : (s.regval .settleUs).toNat = 0 * 65536 + s.settleUs.toNat % 65536 := by
    simp [State.regval, State.settle]
    omega
  rw [u32be_of_toNat (Nat.mod_lt _ (by omega)) hv]
  simp only [List.cons.injEq, and_true]
  refine ⟨rfl, rfl, ?_, ?_⟩ <;> apply BitVec.eq_of_toNat_eq <;>
    simp only [BitVec.toNat_ofNat, BitVec.extractLsb'_toNat, Nat.shiftRight_eq_div_pow] <;> omega

/-- RX_OVF, BUSY and DIR as the low bits of STATUS (R27). -/
def statusFlags (s : State) : Nat :=
  (if s.rxOvf = true then 4 else 0) + (if s.phase ≠ .idle then 2 else 0) +
    (if s.phase = .txSettle ∨ s.phase = .txData then 1 else 0)

theorem statusFlags_lt (s : State) : statusFlags s < 8 := by
  unfold statusFlags; split <;> split <;> split <;> omega

theorem flagWords_eq (s : State) :
    (flagWord s.rxOvf <<< 2) ||| (flagWord s.phase.busy <<< 1) ||| flagWord (s.phase.dir = .transmit) =
      BitVec.ofNat 32 (statusFlags s) := by
  unfold statusFlags
  cases s.rxOvf <;> cases s.phase <;> decide

theorem statusWord_toNat {s : State} (h : s.rxfifo.length ≤ 65535) :
    s.statusWord.toNat = s.rxfifo.length * 65536 + statusFlags s := by
  have hf := statusFlags_lt s
  have hword : s.statusWord = (BitVec.ofNat 32 s.rxfifo.length <<< 16) ||| BitVec.ofNat 32 (statusFlags s) := by
    rw [← flagWords_eq, State.statusWord]; simp only [BitVec.or_assoc]
  have hor : s.rxfifo.length <<< 16 + statusFlags s = s.rxfifo.length <<< 16 ||| statusFlags s :=
    Nat.shiftLeft_add_eq_or_of_lt (by omega) _
  have hhi : s.rxfifo.length <<< 16 < 2 ^ 32 := by rw [Nat.shiftLeft_eq]; omega
  rw [hword, BitVec.toNat_or, BitVec.toNat_shiftLeft, BitVec.toNat_ofNat, BitVec.toNat_ofNat,
    Nat.mod_eq_of_lt (by omega : s.rxfifo.length < 2 ^ 32), Nat.mod_eq_of_lt (by omega : statusFlags s < 2 ^ 32),
    Nat.mod_eq_of_lt hhi, ← hor, Nat.shiftLeft_eq]

theorem regval_status_bytes {s : State} (h : s.rxfifo.length ≤ 65535) :
    u32be (s.regval .status) =
      [BitVec.ofNat 8 (s.rxfifo.length / 256), BitVec.ofNat 8 s.rxfifo.length, 0x00,
        (if s.rxOvf = true then 4 else 0) + (if s.phase ≠ .idle then 2 else 0) +
          (if s.phase = .txSettle ∨ s.phase = .txData then 1 else 0)] := by
  have hf := statusFlags_lt s
  rw [State.regval, u32be_of_toNat (by omega) (statusWord_toNat h), Nat.div_eq_of_lt (by omega : statusFlags s < 256)]
  unfold statusFlags
  cases s.rxOvf <;> cases s.phase <;> simp

/-- Settles O48, register by register. -/
theorem cfgReadAnswers : Obligations.CfgReadAnswers := by
  intro s q arg din hq
  refine ⟨exec_cfgRead_eArg hq, ?_, ?_, ?_, fun hlen => ?_⟩
  · rw [exec_cfgRead_eq hq rfl, regval_ctrl_bytes]
  · rw [exec_cfgRead_eq hq rfl, State.regval, u32be_eq]
  · rw [exec_cfgRead_eq hq rfl, regval_settleUs_bytes]
  · refine ⟨BitVec.ofNat 8 (s.rxfifo.length / 256), BitVec.ofNat 8 s.rxfifo.length, ?_, ?_⟩
    · simp only [BitVec.toNat_ofNat]; omega
    · rw [exec_cfgRead_eq hq rfl, regval_status_bytes hlen]

/-! ## Invariants of the machine's step -/

/-- All that a step can do: nothing, with nothing scheduled; else the step of the agent scheduled next, which then
is scheduled no more. -/
theorem step_cases {s t : State} (h : step s = .next t) :
    t = s ∨ ∃ e es u, s.sched = e :: es ∧ agentStep Config.params e s = .next u ∧ t = u.withSched es := by
  cases hsched : s.sched with
  | nil => exact .inl (by simpa [step, stepWith, hsched] using h.symm)
  | cons e es =>
    have hs : s = s.withSched (e :: es) := by rw [← hsched]; rfl
    rw [hs, step_withSched_cons] at h
    cases ha : agentStep Config.params e s with
    | next u => exact .inr ⟨e, es, u, rfl, ha, by simpa [ha] using h.symm⟩
    | fault r => simp [ha] at h
    | refused r => simp [ha, Result.withSched] at h

/-- A predicate that does not speak of the schedule and that every agent's step keeps is kept by the machine's step. -/
theorem step_preserves {Inv : State → Prop} (hsched : ∀ s es, Inv s → Inv (s.withSched es))
    (hagent : ∀ e s t, Inv s → agentStep Config.params e s = .next t → Inv t) {s t : State} (hs : Inv s)
    (h : step s = .next t) : Inv t := by
  obtain rfl | ⟨e, es, u, -, hu, rfl⟩ := step_cases h
  · exact hs
  · exact hsched u es (hagent e s u hs hu)

/-! ### The parser buffers and the FIFO -/

/-- The buffers and the FIFO of `t` are those of `s`. -/
def SameBuffers (s t : State) : Prop := t.pbuf0 = s.pbuf0 ∧ t.pbuf1 = s.pbuf1 ∧ t.rxfifo = s.rxfifo

theorem BuffersOk.of_same {P : Config.Params} {s t : State} (hs : BuffersOk P s) (h : SameBuffers s t) :
    BuffersOk P t := by
  obtain ⟨h0, h1, hf⟩ := h
  simpa only [BuffersOk, h0, h1, hf] using hs

/-- A buffer may be replaced by one that meets R153. -/
theorem BuffersOk.setPbuf {P : Config.Params} {s : State} (hs : BuffersOk P s) (j : ParserId) {b : Bytes}
    (hb : bufferOk b = true) : BuffersOk P (s.setPbuf j b) := by
  obtain ⟨h0, h1, hf⟩ := hs
  cases j with
  | p0 => exact ⟨hb, h1, hf⟩
  | p1 => exact ⟨h0, hb, hf⟩

/-- A command leaves in the buffers what was there, what a push leaves, or nothing. -/
theorem BuffersOk.exec {P : Config.Params} {i : Instr} {s t : State} (hs : BuffersOk P s) (h : exec i s = .next t) :
    BuffersOk P t := by
  obtain ⟨q, -, hE⟩ := exec_executed h
  cases hE with
  | request _ => exact hs
  | answer _ _ => exact hs
  | crcClear _ _ _ => exact hs
  | crcFeed _ _ _ => exact hs
  | parserPush _ din j _ => exact hs.setPbuf j (bufferOk_parserScan (s.pbuf j ++ din))
  | parserReset _ _ j _ => exact hs.setPbuf j rfl
  | status _ _ => exact hs

theorem BuffersOk.portStep {P : Config.Params} {p : Nat} {s t : State} (hs : BuffersOk P s)
    (h : s.portStep p = .next t) : BuffersOk P t := by
  obtain rfl | ⟨i, u, hf, hx⟩ := portStep_cases h
  · exact hs
  · obtain ⟨q, rest, -, -, -, -, rfl⟩ := fetch_eq_some hf
    exact BuffersOk.exec (s := { s with cur := p, ports := _ }) hs hx

/-- A poll takes bytes out of the FIFO; no other grant touches it (R220). -/
theorem BuffersOk.serve {P : Config.Params} {s : State} (hs : BuffersOk P s) (p : Nat) (r : Request) :
    BuffersOk P (s.serve p r) := by
  obtain ⟨h0, h1, hf⟩ := hs
  cases r with
  | send d => exact ⟨h0, h1, hf⟩
  | recv m =>
    have hdrop : (s.rxfifo.drop m.toNat).length ≤ P.rxFifoDepth := by rw [List.length_drop]; omega
    exact ⟨h0, h1, hdrop⟩
  | cfgw reg v => exact BuffersOk.of_same ⟨h0, h1, hf⟩ ⟨by simp [State.serve, State.grantCfgw],
      by simp [State.serve, State.grantCfgw], by simp [State.serve, State.grantCfgw]⟩

theorem BuffersOk.grant {P : Config.Params} {s : State} (hs : BuffersOk P s) (p : Nat) : BuffersOk P (s.grant p) := by
  obtain h | ⟨q, r, -, -, -, -, h⟩ := grant_cases s p <;> rw [h]
  · exact hs
  · exact hs.serve p r

theorem phaseEnd_sameBuffers (P : Config.Params) (s : State) : SameBuffers s (s.phaseEnd P) := by
  obtain h | ⟨-, -, ⟨-, h⟩ | ⟨-, h⟩ | ⟨-, h⟩⟩ := phaseEnd_cases P s <;> simp [SameBuffers, h]

theorem hostBytes_sameBuffers (s : State) (p : Nat) (bs : Bytes) : SameBuffers s (s.hostBytes p bs) := by
  obtain ⟨h, -⟩ | ⟨q, -, -, h⟩ := hostBytes_cases s p bs <;> rw [h] <;> exact ⟨rfl, rfl, rfl⟩

theorem lineStart_sameBuffers (s : State) : SameBuffers s s.lineStart := by
  unfold State.lineStart; split <;> exact ⟨rfl, rfl, rfl⟩

theorem rstAssert_sameBuffers (s : State) : SameBuffers s s.rstAssert := by
  obtain ⟨-, h⟩ | ⟨-, h⟩ := rstAssert_cases s <;> rw [h] <;> exact ⟨rfl, rfl, rfl⟩

/-- A byte of the peer is appended only where there is room (R31). -/
theorem BuffersOk.rxAccept {P : Config.Params} {s : State} (hs : BuffersOk P s) (x : Byte) :
    BuffersOk P (s.rxAccept P x) := by
  obtain ⟨h0, h1, hf⟩ := hs
  obtain ⟨hroom, h⟩ | ⟨-, h⟩ := rxAccept_cases P s x <;> rw [h]
  · have happ : (s.rxfifo ++ [x]).length ≤ P.rxFifoDepth := by simpa using hroom
    exact ⟨h0, h1, happ⟩
  · exact ⟨h0, h1, hf⟩

theorem BuffersOk.lineStop {P : Config.Params} {s : State} (hs : BuffersOk P s) (v : Byte) (framing : Bool)
    (drawn : Option Byte) : BuffersOk P (s.lineStop P v framing drawn) := by
  obtain h | h | ⟨x, -, -, h⟩ := lineStop_cases P s v framing drawn <;> rw [h]
  · exact hs
  · exact hs
  · exact BuffersOk.rxAccept (s := { s with lineByte := none }) hs x

theorem buffersOk_resetWith (P : Config.Params) : BuffersOk P (State.resetWith P) := ⟨rfl, rfl, Nat.zero_le _⟩

theorem BuffersOk.rstRelease {P : Config.Params} {s : State} (hs : BuffersOk P s) : BuffersOk P (s.rstRelease P) := by
  cases hr : s.rst with
  | true => rw [rstRelease_eq hr]; exact buffersOk_resetWith P
  | false => simpa [State.rstRelease, hr] using hs

theorem BuffersOk.agentStep {P : Config.Params} {e : Event} {s t : State} (hs : BuffersOk P s)
    (h : agentStep P e s = .next t) : BuffersOk P t := by
  cases e with
  | host p bs => cases h; exact hs.of_same (hostBytes_sameBuffers s p bs)
  | port p => exact hs.portStep h
  | grant p => cases h; exact hs.grant p
  | phaseEnd => cases h; exact hs.of_same (phaseEnd_sameBuffers P s)
  | lineStart => cases h; exact hs.of_same (lineStart_sameBuffers s)
  | lineStop v framing drawn => cases h; exact hs.lineStop v framing drawn
  | clock d => cases h; exact hs.of_same (by simp [SameBuffers])
  | rstAssert => cases h; exact hs.of_same (rstAssert_sameBuffers s)
  | rstRelease => cases h; exact hs.rstRelease

/-- Settles O50: every agent's step keeps the buffers and the FIFO in order. -/
theorem buffersInvariant : Obligations.BuffersInvariant := fun _ _ =>
  step_preserves (Inv := BuffersOk Config.params) (fun _ _ h => h) fun _ _ _ => BuffersOk.agentStep

/-! ### Break before make -/

/-- At no time between two of the edges `es` are RXE and TXE both 1 (R224). -/
def NeverBoth (es : List PinEdge) : Prop := ∀ k, levelsAfter (es.take k) ≠ (true, true)

theorem NeverBoth.append {es : List PinEdge} {e : PinEdge} (hes : NeverBoth es)
    (he : levelsAfter (es ++ [e]) ≠ (true, true)) : NeverBoth (es ++ [e]) := by
  intro k
  by_cases hk : k ≤ es.length
  · rw [List.take_append_of_le_length hk]
    exact hes k
  · rw [List.take_of_length_le (by simp only [List.length_append, List.length_singleton]; omega)]
    exact he

/-- The edges `es` are in the order of time, and none lies after `now`. -/
def TimesOk (es : List PinEdge) (now : Rat) : Prop :=
  es.Pairwise (fun a b => a.time ≤ b.time) ∧ ∀ e ∈ es, e.time ≤ now

/-- An edge made now comes last. -/
theorem TimesOk.append {es : List PinEdge} {e : PinEdge} (hes : TimesOk es e.time) :
    TimesOk (es ++ [e]) e.time := by
  obtain ⟨hord, hle⟩ := hes
  refine ⟨List.pairwise_append.2 ⟨hord, List.pairwise_singleton _ e, ?_⟩, ?_⟩
  · simpa using hle
  · simpa [or_imp, forall_and] using hle

theorem edgesOk_iff (s : State) :
    EdgesOk s ↔ NeverBoth s.edges ∧ levelsAfter s.edges = (s.rxe, s.txe) ∧ TimesOk s.edges s.now := Iff.rfl

/-- No new edge, the same outputs, and time has not gone back. -/
theorem EdgesOk.of_same {s t : State} (hs : EdgesOk s) (hedges : t.edges = s.edges) (hrxe : t.rxe = s.rxe)
    (htxe : t.txe = s.txe) (hnow : s.now ≤ t.now) : EdgesOk t := by
  obtain ⟨hnever, hlevels, hord, hle⟩ := hs
  rw [edgesOk_iff, hedges, hrxe, htxe]
  exact ⟨hnever, hlevels, hord, fun e he => (hle e he).trans hnow⟩

/-- The receiver is turned off, and then the transmitter on (R206, R224). -/
theorem EdgesOk.toTransmit {s t : State} (hs : EdgesOk s) (hedges : t.edges = s.edges ++ edgesToTransmit s.now)
    (hnow : t.now = s.now) (hrxe : t.rxe = false) (htxe : t.txe = true) : EdgesOk t := by
  obtain ⟨hnever, -, htimes⟩ := (edgesOk_iff s).1 hs
  have hsplit : t.edges = s.edges ++ [⟨s.now, .rxe, false⟩] ++ [⟨s.now, .txe, true⟩] := by
    rw [hedges, edgesToTransmit, List.append_assoc]; rfl
  rw [edgesOk_iff, hsplit, hnow, hrxe, htxe]
  exact ⟨(hnever.append (by simp [levelsAfter])).append (by simp [levelsAfter]), by simp [levelsAfter],
    TimesOk.append (e := ⟨s.now, .txe, true⟩) (TimesOk.append (e := ⟨s.now, .rxe, false⟩) htimes)⟩

/-- The transmitter is turned off, and then the receiver on (R212, R224). -/
theorem EdgesOk.toReceive {s t : State} (hs : EdgesOk s) (hedges : t.edges = s.edges ++ edgesToReceive s.now)
    (hnow : t.now = s.now) (hrxe : t.rxe = true) (htxe : t.txe = false) : EdgesOk t := by
  obtain ⟨hnever, -, htimes⟩ := (edgesOk_iff s).1 hs
  have hsplit : t.edges = s.edges ++ [⟨s.now, .txe, false⟩] ++ [⟨s.now, .rxe, true⟩] := by
    rw [hedges, edgesToReceive, List.append_assoc]; rfl
  rw [edgesOk_iff, hsplit, hnow, hrxe, htxe]
  exact ⟨(hnever.append (by simp [levelsAfter])).append (by simp [levelsAfter]), by simp [levelsAfter],
    TimesOk.append (e := ⟨s.now, .rxe, true⟩) (TimesOk.append (e := ⟨s.now, .txe, false⟩) htimes)⟩

/-- A grant leaves the outputs as they are, but for the grant of a send, on an idle line. -/
theorem EdgesOk.grant {s : State} (hs : EdgesOk s) (p : Nat) : EdgesOk (s.grant p) := by
  obtain h | ⟨q, r, hr, -, -, -, h⟩ := grant_cases s p <;> rw [h]
  · exact hs
  · cases r with
    | send d =>
      have hr' : (s.grantSend p d).rst = false := hr
      exact hs.toTransmit rfl rfl (rxe_eq hr') (txe_eq hr')
    | recv m => exact hs.of_same rfl rfl rfl le_rfl
    | cfgw reg v => cases reg <;> exact hs.of_same rfl rfl rfl le_rfl

/-- Of the ends of a phase, that of TX_DATA alone moves the outputs (R34). -/
theorem EdgesOk.phaseEnd {s : State} (hs : EdgesOk s) (P : Config.Params) : EdgesOk (s.phaseEnd P) := by
  obtain h | ⟨hr, -, ⟨hp, h⟩ | ⟨hp, h⟩ | ⟨hp, h⟩⟩ := phaseEnd_cases P s <;> rw [h]
  · exact hs
  · exact hs.of_same rfl (by simp [State.rxe, hp, Phase.rxe]) (by simp [State.txe, hp, Phase.txe]) le_rfl
  · have hr' : s.endTxData.rst = false := hr
    exact hs.toReceive rfl rfl (rxe_eq hr') (txe_eq hr')
  · exact hs.of_same (by simp) (by simp [State.rxe, hp, Phase.rxe]) (by simp [State.txe, hp, Phase.txe]) (by simp)

/-- RST asserted moves the outputs while the block transmits, and not otherwise (R300). -/
theorem EdgesOk.rstAssert {s : State} (hs : EdgesOk s) : EdgesOk s.rstAssert := by
  obtain ⟨-, h⟩ | ⟨hr, h⟩ := rstAssert_cases s <;> rw [h]
  · exact hs
  · cases htx : s.phase.txe with
    | true => exact hs.toReceive rfl rfl rfl rfl
    | false =>
      have hrx : s.phase.rxe = true := by cases hp : s.phase <;> simp_all [Phase.txe, Phase.rxe]
      exact hs.of_same rfl (by simp [State.rxe, hrx]) (by simp [State.txe, htx]) le_rfl

/-- RST released leaves the line in the receive direction that it has under RST (R301). -/
theorem EdgesOk.rstRelease {s : State} (hs : EdgesOk s) (P : Config.Params) : EdgesOk (s.rstRelease P) := by
  cases hr : s.rst with
  | true =>
    rw [rstRelease_eq hr]
    exact hs.of_same rfl (by simp [State.rxe, hr, State.resetWith, Phase.rxe])
      (by simp [State.txe, hr, State.resetWith, Phase.txe]) le_rfl
  | false => simpa [State.rstRelease, hr] using hs

/-- No agent's step takes time back (R14). -/
theorem agentStep_now_le {P : Config.Params} {e : Event} {s t : State} (h : agentStep P e s = .next t) :
    s.now ≤ t.now := by
  cases e with
  | host p bs =>
    cases h
    obtain ⟨h, -⟩ | ⟨q, -, -, h⟩ := hostBytes_cases s p bs <;> rw [h]
  | port p =>
    obtain rfl | ⟨i, u, hf, hx⟩ := portStep_cases h
    · exact le_rfl
    · exact (exec_of_fetch_keeps hf hx).2.ge
  | grant p =>
    cases h
    obtain h | ⟨q, r, -, -, -, -, h⟩ := grant_cases s p <;> rw [h]
    cases r with
    | send d => exact le_rfl
    | recv m => exact le_rfl
    | cfgw reg v => cases reg <;> exact le_rfl
  | phaseEnd =>
    cases h
    obtain h | ⟨-, -, ⟨-, h⟩ | ⟨-, h⟩ | ⟨-, h⟩⟩ := phaseEnd_cases P s <;> simp [h]
  | lineStart => cases h; unfold State.lineStart; split <;> exact le_rfl
  | lineStop v framing drawn =>
    cases h
    obtain h | h | ⟨x, -, -, h⟩ := lineStop_cases P s v framing drawn <;> simp [h]
  | clock d =>
    cases h
    rw [State.clock_now]
    split <;> linarith
  | rstAssert => cases h; obtain ⟨-, h⟩ | ⟨-, h⟩ := rstAssert_cases s <;> rw [h]
  | rstRelease =>
    cases h
    cases hr : s.rst with
    | true => rw [rstRelease_eq hr]
    | false => simp [State.rstRelease, hr]

theorem EdgesOk.agentStep {P : Config.Params} {e : Event} {s t : State} (hs : EdgesOk s)
    (h : agentStep P e s = .next t) : EdgesOk t := by
  have still (k : SameArbiter s t) : EdgesOk t := hs.of_same k.edges k.rxe k.txe (agentStep_now_le h)
  cases e with
  | grant p => cases h; exact hs.grant p
  | phaseEnd => cases h; exact hs.phaseEnd P
  | rstAssert => cases h; exact hs.rstAssert
  | rstRelease => cases h; exact hs.rstRelease P
  | host p bs => exact still (agentStep_sameArbiter h nofun nofun nofun nofun)
  | port p => exact still (agentStep_sameArbiter h nofun nofun nofun nofun)
  | lineStart => exact still (agentStep_sameArbiter h nofun nofun nofun nofun)
  | lineStop v framing drawn => exact still (agentStep_sameArbiter h nofun nofun nofun nofun)
  | clock d => exact still (agentStep_sameArbiter h nofun nofun nofun nofun)

/-- Settles O53: the arbiter and RST turn one direction off before the other on, and no other agent moves the outputs. -/
theorem breakBeforeMakeInvariant : Obligations.BreakBeforeMakeInvariant := fun _ _ =>
  step_preserves (Inv := EdgesOk) (fun _ _ h => h) fun _ _ _ => EdgesOk.agentStep

/-! ### The registers -/

/-- A legal write of an arbitrated register leaves it legal (R254 to R256). -/
theorem RegistersOk.writeLineReg {s : State} (hs : RegistersOk s) {r : LineReg} {v : Word}
    (hv : r = .baud → v ≠ 0) : RegistersOk (s.writeLineReg r v) := by
  obtain ⟨hctrl, hbaud, hsettle⟩ := hs
  cases r with
  | ctrl => exact ⟨by simp [BitVec.and_assoc], hbaud, hsettle⟩
  | baud => exact ⟨hctrl, hv rfl, hsettle⟩
  | settleUs => exact ⟨hctrl, hbaud, by simp [BitVec.and_assoc]⟩

/-- A 16-bit value has no bit in the reserved half of SETTLE_US. -/
theorem setWidth_and_reserved (x : Half) : x.setWidth 32 &&& 0xFFFF0000#32 = 0#32 := by
  have happ : x.setWidth 32 = 0#16 ++ x := BitVec.setWidth_eq_append (by decide)
  have hmask : 0xFFFF0000#32 = 0xFFFF#16 ++ 0#16 := by decide
  rw [happ, hmask, BitVec.and_append]
  simp

theorem registersOk_resetWith (P : Config.Params) : RegistersOk (State.resetWith P) :=
  ⟨by simp [State.resetWith], P.baudReset_ne, setWidth_and_reserved P.settleReset⟩

/-! ### The requests that commands make -/

/-- A `CFG_WRITE` requests a register write, and of BAUD only with a value other than 0 (R253, R256). -/
theorem requestOf_cfgWrite {arg : Byte} {din : Bytes} {r : Request} (h : requestOf (.cfgWrite arg din) = some r) :
    ∃ reg v, r = .cfgw reg v ∧ (reg = .baud → v ≠ 0) := by
  simp only [requestOf] at h
  split at h
  · cases h
  · split at h
    · exact ⟨.ctrl, _, (Option.some.inj h).symm, nofun⟩
    · split at h
      · rename_i hv
        exact ⟨.baud, _, (Option.some.inj h).symm, fun _ => hv.2⟩
      · split at h
        · exact ⟨.settleUs, _, (Option.some.inj h).symm, nofun⟩
        · cases h

theorem requestOf_eq_send {i : Instr} {d : Bytes} (h : requestOf i = some (.send d)) : i = .xcvrSend 0x00 d := by
  cases i with
  | xcvrSend arg din => simpa [requestOf] using h
  | xcvrRecv arg m => simp [requestOf] at h
  | cfgWrite arg din => obtain ⟨reg, v, hr, -⟩ := requestOf_cfgWrite h; cases hr
  | _ => cases h

theorem requestOf_eq_cfgw {i : Instr} {reg : LineReg} {v : Word} (h : requestOf i = some (.cfgw reg v)) :
    reg = .baud → v ≠ 0 := by
  cases i with
  | xcvrSend arg din => simp [requestOf] at h
  | xcvrRecv arg m => simp [requestOf] at h
  | cfgWrite arg din => obtain ⟨reg, v, hr, hv⟩ := requestOf_cfgWrite h; cases hr; exact hv
  | _ => cases h

/-! ### `CMD`, `PEND` and OWNER of a port -/

section
variable {s t : State} {p : Nat} {q : Port}

theorem portOk_of_cmd_none (hc : q.cmd = none) : PortOk s p q ↔ q.pend = none ∧ s.owner ≠ some p := by
  simp only [PortOk, hc]

theorem portOk_of_cmd_some {i : Instr} (hc : q.cmd = some i) :
    PortOk s p q ↔
      (∃ r, requestOf i = some r ∧ q.pend = some r ∧ s.owner ≠ some p) ∨
      (∃ d, i = .xcvrSend 0x00 d ∧ q.pend = none ∧ s.owner = some p ∧ (s.txq = d ∨ s.phase = .rxSettle)) := by
  simp only [PortOk, hc]

/-- A port that waits has the command that made its request. -/
theorem PortOk.of_pend {r : Request} (h : PortOk s p q) (hp : q.pend = some r) :
    ∃ i, q.cmd = some i ∧ requestOf i = some r := by
  cases hc : q.cmd with
  | none => simp [((portOk_of_cmd_none hc).1 h).1] at hp
  | some i =>
    obtain ⟨r', hr', hp', -⟩ | ⟨d, -, hp', -⟩ := (portOk_of_cmd_some hc).1 h
    · exact ⟨i, rfl, hr'.trans (hp'.symm.trans hp)⟩
    · simp [hp'] at hp

/-- The port that owns the line waits for no grant. -/
theorem PortOk.of_owner (h : PortOk s p q) (ho : s.owner = some p) : q.pend = none := by
  cases hc : q.cmd with
  | none => exact absurd ho ((portOk_of_cmd_none hc).1 h).2
  | some i =>
    obtain ⟨r', -, -, ho'⟩ | ⟨d, -, hp', -⟩ := (portOk_of_cmd_some hc).1 h
    · exact absurd ho ho'
    · exact hp'

/-- With the same owner, a port stays in order as long as the send in progress keeps its bytes, or is at its end. -/
theorem PortOk.of_same_owner (h : PortOk s p q) (ho : t.owner = s.owner)
    (hsend : t.txq = s.txq ∧ s.phase ≠ .rxSettle ∨ t.phase = .rxSettle) : PortOk t p q := by
  cases hc : q.cmd with
  | none => rwa [portOk_of_cmd_none hc, ho, ← portOk_of_cmd_none hc]
  | some i =>
    rw [portOk_of_cmd_some hc, ho]
    obtain hwaits | ⟨d, hi, hp, hown, hd⟩ := (portOk_of_cmd_some hc).1 h
    · exact .inl hwaits
    · refine .inr ⟨d, hi, hp, hown, ?_⟩
      obtain ⟨htxq, hphase⟩ | hend := hsend
      · exact .inl (htxq.trans (hd.resolve_right hphase))
      · exact .inr hend

/-- A port that does not own the line is in order whatever the arbiter does elsewhere. -/
theorem PortOk.of_not_owner (h : PortOk s p q) (hs : s.owner ≠ some p) (ht : t.owner ≠ some p) : PortOk t p q := by
  cases hc : q.cmd with
  | none => exact (portOk_of_cmd_none hc).2 ⟨((portOk_of_cmd_none hc).1 h).1, ht⟩
  | some i =>
    obtain ⟨r, hr, hp, -⟩ | ⟨d, -, -, ho, -⟩ := (portOk_of_cmd_some hc).1 h
    · exact (portOk_of_cmd_some hc).2 (.inl ⟨r, hr, hp, ht⟩)
    · exact absurd ho hs

end

/-! ### All ports -/

section
variable {P : Config.Params} {s t : State}

theorem PortsOk.port {p : Nat} {q : Port} (hs : PortsOk P s) (hq : s.ports[p]? = some q) : PortOk s p q := by
  obtain ⟨-, heach, -⟩ := hs
  exact heach p q hq

theorem PortsOk.owner_lt {p : Nat} (hs : PortsOk P s) (ho : s.owner = some p) : p < P.nPorts := by
  obtain ⟨-, -, howner⟩ := hs
  exact howner p ho

theorem PortsOk.lt {p : Nat} {q : Port} (hs : PortsOk P s) (hq : s.ports[p]? = some q) : p < P.nPorts := by
  obtain ⟨hcount, -, -⟩ := hs
  exact hcount ▸ (List.getElem?_eq_some_iff.1 hq).1

theorem PortsOk.exists_owner {p : Nat} (hs : PortsOk P s) (ho : s.owner = some p) : ∃ q, s.ports[p]? = some q := by
  obtain ⟨hcount, -, howner⟩ := hs
  exact ⟨_, List.getElem?_eq_getElem (hcount ▸ howner p ho)⟩

/-- The ports themselves unchanged, and each still in order. -/
theorem PortsOk.of_same_ports (hs : PortsOk P s) (hports : t.ports = s.ports) (ho : t.owner = s.owner)
    (hall : ∀ p q, PortOk s p q → PortOk t p q) : PortsOk P t := by
  obtain ⟨hcount, heach, howner⟩ := hs
  refine ⟨by rw [hports, hcount], fun p q hq => hall p q (heach p q ?_), fun p hp => howner p (ho ▸ hp)⟩
  rwa [hports] at hq

/-- One port's record changed: it is in order, and the others still are. -/
theorem PortsOk.set {p : Nat} {q : Port} (hs : PortsOk P s) (hports : t.ports = s.ports.set p q) (hq : PortOk t p q)
    (hothers : ∀ p' q', p' ≠ p → PortOk s p' q' → PortOk t p' q') (howner : ∀ p', t.owner = some p' → p' < P.nPorts) :
    PortsOk P t := by
  obtain ⟨hcount, heach, -⟩ := hs
  refine ⟨by rw [hports, List.length_set, hcount], fun p' q' hq' => ?_, howner⟩
  rw [hports] at hq'
  by_cases hp : p' = p
  · subst hp
    obtain ⟨hlt, -⟩ := List.getElem?_eq_some_iff.1 hq'
    rw [List.length_set] at hlt
    obtain rfl : q = q' := by simpa [List.getElem?_set_self hlt] using hq'
    exact hq
  · rw [List.getElem?_set_ne (Ne.symm hp)] at hq'
    exact hothers p' q' hp (heach p' q' hq')

/-- The registers and the arbiter's data are the same in `s` and `t`. -/
structure SameLine (s t : State) : Prop where
  ctrl : t.ctrl = s.ctrl
  baud : t.baud = s.baud
  settleUs : t.settleUs = s.settleUs
  phase : t.phase = s.phase
  owner : t.owner = s.owner
  txq : t.txq = s.txq
  txmask : t.txmask = s.txmask

theorem SameLine.registersOk (k : SameLine s t) (h : RegistersOk s) : RegistersOk t := by
  simpa only [RegistersOk, k.ctrl, k.baud, k.settleUs] using h

theorem SameLine.arbiterOk (k : SameLine s t) (h : ArbiterOk s) : ArbiterOk t := by
  simpa only [ArbiterOk, k.phase, k.owner, k.txq, k.txmask] using h

theorem SameLine.portOk (k : SameLine s t) {p : Nat} {q : Port} (h : PortOk s p q) : PortOk t p q := by
  simpa only [PortOk, k.phase, k.owner, k.txq] using h

theorem LineOk.of_same (hs : LineOk P s) (k : SameLine s t) (hports : t.ports = s.ports) : LineOk P t := by
  obtain ⟨hreg, harb, hp⟩ := hs
  exact ⟨k.registersOk hreg, k.arbiterOk harb, hp.of_same_ports hports k.owner fun _ _ => k.portOk⟩

theorem LineOk.set {p : Nat} {q : Port} (hs : LineOk P s) (k : SameLine s t) (hports : t.ports = s.ports.set p q)
    (hq : PortOk s p q) : LineOk P t := by
  obtain ⟨hreg, harb, hp⟩ := hs
  have howner (p' : Nat) (h : t.owner = some p') : p' < P.nPorts := hp.owner_lt (k.owner ▸ h)
  exact ⟨k.registersOk hreg, k.arbiterOk harb, hp.set hports (k.portOk hq) (fun _ _ _ => k.portOk) howner⟩

end

/-! ### The agents' steps and the line invariant -/

section
variable {P : Config.Params} {s t : State}

theorem LineOk.port {p : Nat} {q : Port} (hs : LineOk P s) (hq : s.ports[p]? = some q) : PortOk s p q := by
  obtain ⟨-, -, hports⟩ := hs
  exact hports.port hq

theorem LineOk.arbiterOk (hs : LineOk P s) : ArbiterOk s := by
  obtain ⟨-, harb, -⟩ := hs
  exact harb

theorem LineOk.hostBytes (hs : LineOk P s) (p : Nat) (bs : Bytes) : LineOk P (s.hostBytes p bs) := by
  obtain ⟨h, -⟩ | ⟨q, -, hq, h⟩ := hostBytes_cases s p bs <;> rw [h]
  · exact hs
  · have hok := hs.port hq
    exact hs.set ⟨rfl, rfl, rfl, rfl, rfl, rfl, rfl⟩ rfl hok

/-- The record of the port served after a command: a request made, or the command answered. -/
theorem Effect.ports {q : Port} {i : Instr} (h : Effect s q i t) :
    ∃ q', t.ports = s.ports.set s.cur q' ∧
      ((∃ r, requestOf i = some r ∧ q'.cmd = q.cmd ∧ q'.pend = some r) ∨ (q'.cmd = none ∧ q'.pend = q.pend)) := by
  cases h with
  | @request _ r hr => exact ⟨_, rfl, .inl ⟨r, hr, rfl, rfl⟩⟩
  | answer _ _ => exact ⟨_, rfl, .inr ⟨rfl, rfl⟩⟩
  | crcClear _ _ _ => exact ⟨_, rfl, .inr ⟨rfl, rfl⟩⟩
  | crcFeed _ _ _ => exact ⟨_, rfl, .inr ⟨rfl, rfl⟩⟩
  | parserPush _ _ j _ => exact ⟨{ q with cmd := none }, by simp, .inr ⟨rfl, rfl⟩⟩
  | parserReset _ _ j _ => exact ⟨{ q with cmd := none }, by simp, .inr ⟨rfl, rfl⟩⟩
  | status _ _ => exact ⟨_, rfl, .inr ⟨rfl, rfl⟩⟩

/-- A port that fetches is free, so it waits for nothing and owns nothing; after its command it is free again, or waits
for the request that the command has made. -/
theorem LineOk.portStep {p : Nat} (hs : LineOk P s) (h : s.portStep p = .next t) : LineOk P t := by
  obtain rfl | ⟨i, u, hf, hx⟩ := portStep_cases h
  · exact hs
  · obtain ⟨q, rest, -, hq, hc, -, rfl⟩ := fetch_eq_some hf
    have hlt : p < s.ports.length := (List.getElem?_eq_some_iff.1 hq).1
    obtain ⟨hpend, howner⟩ := (portOk_of_cmd_none hc).1 (hs.port hq)
    have k := exec_keeps hx
    obtain ⟨q1, hq1, hE⟩ := exec_executed hx
    obtain rfl : { q with inbuf := rest, cmd := some i } = q1 := by simpa [hlt] using hq1
    obtain ⟨q2, hports, hq2⟩ := hE.ports
    refine hs.set (q := q2) ⟨k.ctrl, k.baud, k.settleUs, k.phase, k.owner, k.txq, k.txmask⟩
      (by simpa using hports) ?_
    obtain ⟨r, hr, hcmd, hp⟩ | ⟨hcmd, hp⟩ := hq2
    · exact (portOk_of_cmd_some hcmd).2 (.inl ⟨r, hr, hp, howner⟩)
    · exact (portOk_of_cmd_none hcmd).2 ⟨hp.trans hpend, howner⟩

/-- On an idle line no port owns it. -/
theorem ArbiterOk.idle (h : ArbiterOk s) (hi : s.phase = .idle) : s.owner = none ∧ s.txq = [] := by
  obtain ⟨-, h⟩ := h
  simpa only [hi] using h

theorem invertMask_cases (s : State) : s.invertMask = 0x00 ∨ s.invertMask = 0xFF := by
  unfold State.invertMask; split
  · exact .inr rfl
  · exact .inl rfl

/-- A port's record after its request was granted and answered. -/
theorem answer_clearPend_ports {p : Nat} {q : Port} (hq : s.ports[p]? = some q) (r : Response) :
    ((s.clearPend p).answer p r).ports = s.ports.set p { q with pend := none, cmd := none } := by
  have hlt : p < s.ports.length := (List.getElem?_eq_some_iff.1 hq).1
  have hc : (s.clearPend p).ports = s.ports.set p { q with pend := none } := modify_eq_set hq _
  have hq' : (s.clearPend p).ports[p]? = some { q with pend := none } := by rw [hc, List.getElem?_set_self hlt]
  rw [State.answer_ports, modify_eq_set hq', hc, List.set_set]

/-- The grant of a send makes its port the owner of the line (R205, R206). -/
theorem LineOk.grantSend {p : Nat} {q : Port} {d : Bytes} (hs : LineOk P s) (hi : s.phase = .idle)
    (hq : s.ports[p]? = some q) (hp : q.pend = some (.send d)) : LineOk P (s.grantSend p d) := by
  obtain ⟨i, hc, hr⟩ := (hs.port hq).of_pend hp
  obtain ⟨hreg, harb, hports⟩ := hs
  obtain ⟨hfree, -⟩ := harb.idle hi
  refine ⟨hreg, ⟨invertMask_cases s, rfl⟩, hports.set (q := { q with pend := none }) (modify_eq_set hq _) ?_ ?_ ?_⟩
  · exact (portOk_of_cmd_some (s := s.grantSend p d) (q := { q with pend := none }) hc).2
      (.inr ⟨d, requestOf_eq_send hr, rfl, rfl, .inl rfl⟩)
  · intro p' q' hne hok
    exact hok.of_not_owner (by simp [hfree]) (by simpa using hne.symm)
  · intro p' hp'
    obtain rfl : p = p' := by simpa using hp'
    exact hports.lt hq

/-- The grant of a poll answers its port, which is free again (R220). -/
theorem LineOk.grantRecv {p : Nat} {q : Port} (hs : LineOk P s) (hi : s.phase = .idle) (hq : s.ports[p]? = some q)
    (m : Half) : LineOk P (s.grantRecv p m) := by
  obtain ⟨hnone, -⟩ := hs.arbiterOk.idle hi
  have hfree : PortOk s p { q with pend := none, cmd := none } := (portOk_of_cmd_none rfl).2 ⟨rfl, by simp [hnone]⟩
  exact hs.set ⟨rfl, rfl, rfl, rfl, rfl, rfl, rfl⟩ (answer_clearPend_ports hq ⟨.ok, 0x00, s.polled m⟩) hfree

/-- The grant of a register write is legal, and answers its port, which is free again (R225). -/
theorem LineOk.grantCfgw {p : Nat} {q : Port} {r : LineReg} {v : Word} (hs : LineOk P s) (hi : s.phase = .idle)
    (hq : s.ports[p]? = some q) (hp : q.pend = some (.cfgw r v)) : LineOk P (s.grantCfgw p r v) := by
  obtain ⟨i, -, hr⟩ := (hs.port hq).of_pend hp
  obtain ⟨hnone, -⟩ := hs.arbiterOk.idle hi
  obtain ⟨hreg, harb, hports⟩ := hs
  have hwrite : LineOk P (s.writeLineReg r v) :=
    ⟨hreg.writeLineReg (requestOf_eq_cfgw hr), by simpa [ArbiterOk] using harb,
      hports.of_same_ports (by simp) (by simp) fun p q h => by simpa [PortOk] using h⟩
  have hq' : (s.writeLineReg r v).ports[p]? = some q := by simpa using hq
  have hfree : PortOk (s.writeLineReg r v) p { q with pend := none, cmd := none } :=
    (portOk_of_cmd_none rfl).2 ⟨rfl, by simp [hnone]⟩
  have hports' := answer_clearPend_ports hq' ⟨.ok, 0x00, []⟩
  cases r <;> exact hwrite.set ⟨rfl, rfl, rfl, rfl, rfl, rfl, rfl⟩ hports' hfree

theorem LineOk.grant (hs : LineOk P s) (p : Nat) : LineOk P (s.grant p) := by
  obtain h | ⟨q, r, -, hi, hq, hp, h⟩ := grant_cases s p <;> rw [h]
  · exact hs
  · cases r with
    | send d => exact hs.grantSend hi hq hp
    | recv m => exact hs.grantRecv hi hq m
    | cfgw r v => exact hs.grantCfgw hi hq hp

/-- The data phase keeps the owner and its bytes. -/
theorem LineOk.endTxSettle (hs : LineOk P s) (hp : s.phase = .txSettle) : LineOk P (s.endTxSettle P) := by
  obtain ⟨hreg, ⟨hmask, harb⟩, hports⟩ := hs
  simp only [hp] at harb
  refine ⟨hreg, ⟨hmask, harb⟩, hports.of_same_ports rfl rfl fun p q hok => hok.of_same_owner rfl ?_⟩
  exact .inl ⟨rfl, by simp [hp]⟩

/-- After the data, the owner waits for the settle time and TXQ is empty (R212). -/
theorem LineOk.endTxData (hs : LineOk P s) : LineOk P s.endTxData := by
  obtain ⟨hreg, ⟨hmask, -⟩, hports⟩ := hs
  exact ⟨hreg, ⟨hmask, rfl⟩, hports.of_same_ports rfl rfl fun p q hok => hok.of_same_owner rfl (.inr rfl)⟩

/-- At the end of the send its owner, if there is one, is answered, and the line is free (R213). -/
theorem PortsOk.endRxSettle (hs : PortsOk P s) : PortsOk P s.endRxSettle := by
  have hothers (p : Nat) (q : Port) (hne : s.owner ≠ some p) (hok : PortOk s p q) : PortOk s.endRxSettle p q :=
    hok.of_not_owner hne (by simp)
  cases ho : s.owner with
  | none =>
    exact hs.of_same_ports (by simp [State.endRxSettle_ports, ho]) (by simp [ho]) fun p q =>
      hothers p q (by simp [ho])
  | some o =>
    obtain ⟨q, hq⟩ := hs.exists_owner ho
    refine hs.set (p := o) (q := { q with cmd := none })
      (by simp [State.endRxSettle_ports, ho, modify_eq_set hq]) ?_ ?_ (by simp)
    · exact (portOk_of_cmd_none rfl).2 ⟨(hs.port hq).of_owner ho, by simp⟩
    · intro p' q' hne
      exact hothers p' q' (by simpa [ho] using hne.symm)

theorem LineOk.endRxSettle (hs : LineOk P s) (hp : s.phase = .rxSettle) : LineOk P s.endRxSettle := by
  obtain ⟨hreg, ⟨hmask, harb⟩, hports⟩ := hs
  simp only [hp] at harb
  exact ⟨by simpa [RegistersOk] using hreg, by simpa [ArbiterOk, harb] using hmask, hports.endRxSettle⟩

theorem LineOk.phaseEnd (hs : LineOk P s) : LineOk P (s.phaseEnd P) := by
  obtain h | ⟨-, -, ⟨hp, h⟩ | ⟨-, h⟩ | ⟨hp, h⟩⟩ := phaseEnd_cases P s <;> rw [h]
  · exact hs
  · exact hs.endTxSettle hp
  · exact hs.endTxData
  · exact hs.endRxSettle hp

theorem LineOk.lineStart (hs : LineOk P s) : LineOk P s.lineStart := by
  unfold State.lineStart; split
  · exact hs
  · exact hs.of_same ⟨rfl, rfl, rfl, rfl, rfl, rfl, rfl⟩ rfl

theorem LineOk.lineStop (hs : LineOk P s) (v : Byte) (framing : Bool) (drawn : Option Byte) :
    LineOk P (s.lineStop P v framing drawn) := by
  obtain h | h | ⟨x, -, -, h⟩ := lineStop_cases P s v framing drawn <;> rw [h]
  · exact hs
  · exact hs.of_same ⟨rfl, rfl, rfl, rfl, rfl, rfl, rfl⟩ rfl
  · exact hs.of_same (by constructor <;> simp) (by simp)

theorem LineOk.rstAssert (hs : LineOk P s) : LineOk P s.rstAssert := by
  obtain ⟨-, h⟩ | ⟨-, h⟩ := rstAssert_cases s <;> rw [h]
  · exact hs
  · exact hs.of_same ⟨rfl, rfl, rfl, rfl, rfl, rfl, rfl⟩ rfl

/-- Reset leaves N_PORTS free ports, and no owner of the line (R301). -/
theorem portsOk_resetWith (P : Config.Params) : PortsOk P (State.resetWith P) := by
  refine ⟨by simp [resetWith_ports], fun p q hq => ?_, nofun⟩
  rw [resetWith_ports] at hq
  obtain rfl : q = Port.reset := List.eq_of_mem_replicate (List.mem_of_getElem? hq)
  exact (portOk_of_cmd_none rfl).2 ⟨rfl, nofun⟩

theorem lineOk_resetWith (P : Config.Params) : LineOk P (State.resetWith P) :=
  ⟨registersOk_resetWith P, ⟨.inl rfl, rfl⟩, portsOk_resetWith P⟩

theorem LineOk.rstRelease (hs : LineOk P s) : LineOk P (s.rstRelease P) := by
  cases hr : s.rst with
  | true => rw [rstRelease_eq hr]; exact lineOk_resetWith P
  | false => simpa [State.rstRelease, hr] using hs

theorem LineOk.agentStep {e : Event} (hs : LineOk P s) (h : agentStep P e s = .next t) : LineOk P t := by
  cases e with
  | host p bs => cases h; exact hs.hostBytes p bs
  | port p => exact hs.portStep h
  | grant p => cases h; exact hs.grant p
  | phaseEnd => cases h; exact hs.phaseEnd
  | lineStart => cases h; exact hs.lineStart
  | lineStop v framing drawn => cases h; exact hs.lineStop v framing drawn
  | clock d => cases h; exact hs.of_same (by constructor <;> simp) (by simp)
  | rstAssert => cases h; exact hs.rstAssert
  | rstRelease => cases h; exact hs.rstRelease

end

/-- Settles O51: every agent's step keeps registers, arbiter and ports in order together. -/
theorem lineInvariant : Obligations.LineInvariant := fun _ _ =>
  step_preserves (Inv := LineOk Config.params) (fun _ _ h => h) fun _ _ _ => LineOk.agentStep

/-! ### Reset -/

theorem edgesOk_resetWith (P : Config.Params) : EdgesOk (State.resetWith P) :=
  ⟨fun k => by simp [State.resetWith, levelsAfter], rfl, List.Pairwise.nil, nofun⟩

theorem wireOk_resetWith (P : Config.Params) : WireOk (State.resetWith P) := ⟨List.Pairwise.nil, nofun⟩

theorem answersOk_resetWith (P : Config.Params) : AnswersOk P (State.resetWith P) :=
  ⟨by simp [resetWith_ports], nofun, nofun⟩

/-- Settles O55: the state of R301 meets each invariant, whatever the parameters. -/
theorem resetMeetsTheInvariants : Obligations.ResetMeetsTheInvariants :=
  ⟨buffersOk_resetWith _, lineOk_resetWith _, wireOk_resetWith _, edgesOk_resetWith _, answersOk_resetWith _⟩

end Sys2Proof.Machine

namespace Sys2Proof.Machine

/-! ## Responses as bytes -/

/-- The bytes of a response, with RLEN written out as its high and its low byte (R51, R72). -/
theorem Response.bytes_eq (r : Response) :
    r.bytes = r.status.code :: r.aux :: r.rlen.extractLsb' 8 8 :: r.rlen.extractLsb' 0 8 :: r.dout := by
  simp [Response.bytes, u16be_eq]

/-- RLEN counts the result bytes of a response that is no longer than it can say. -/
theorem Response.rlen_toNat {r : Response} (h : r.dout.length ≤ 65535) : r.rlen.toNat = r.dout.length := by
  simp only [Response.rlen, BitVec.toNat_ofNat]
  omega

/-- The ranges of R270: no code lies in 0x03..0x0F or above 0x17. -/
theorem Status.code_toNat_range (st : Status) :
    st.code.toNat ≤ 0x02 ∨ (0x10 ≤ st.code.toNat ∧ st.code.toNat ≤ 0x17) := by
  cases st <;> decide

/-- Settles O4: the two RLEN bytes side by side are RLEN, which counts the result bytes. -/
theorem responseBytesLayout : Obligations.ResponseBytesLayout := by
  refine ⟨fun r hlen => ⟨_, _, r.bytes_eq, ?_⟩, by decide, Status.code_toNat_range⟩
  rw [← append_toNat, half_of_u16be, Response.rlen_toNat hlen]

/-! ## Pushes on the parser instances -/

section
variable {s : State} {q : Port}

/-- The answer of a push of `din` into the buffer `buf` (R157). -/
def pushResponse (buf din : Bytes) : Response :=
  let r := parserPush buf din
  ⟨.ok, pushAux buf din r.out r.buf r.nf, r.out⟩

/-- The state after port `cur`, whose record is `q`, has pushed `din` on instance `i` (R157). -/
def State.pushed (s : State) (q : Port) (i : ParserId) (din : Bytes) : State :=
  (s.setPbuf i (parserPush (s.pbuf i) din).buf).ended { q with cmd := none } (pushResponse (s.pbuf i) din)

/-- `PARSER_PUSH` on an instance, of no more bytes than its limit (R157). -/
theorem exec_parserPush_eq (hq : s.ports[s.cur]? = some q) {arg : Byte} {i : ParserId} (hi : parserArg arg = some i)
    {din : Bytes} (hlen : din.length ≤ 65472) : exec (.parserPush arg din) s = .next (s.pushed q i din) := by
  simp only [exec, execParserPush, hi, Config.pushMax, Nat.not_lt.2 hlen, if_false]
  exact respond_setPbuf hq _ _ _ _ _

/-- A push leaves its port there, with no command. -/
theorem pushed_port (hq : s.ports[s.cur]? = some q) (i : ParserId) (din : Bytes) :
    (s.pushed q i din).ports[(s.pushed q i din).cur]? = some { q with cmd := none } := by
  have hp : s.cur < s.ports.length := (List.getElem?_eq_some_iff.1 hq).1
  simp [State.pushed, hp]

@[simp] theorem State.ended_pbuf (s : State) (q : Port) (r : Response) (i : ParserId) :
    (s.ended q r).pbuf i = s.pbuf i := by cases i <;> rfl

/-- A push on one instance does not reach the buffer of the other (R150). -/
theorem pushed_pbuf_of_ne (q : Port) {i j : ParserId} (hij : i ≠ j) (din : Bytes) :
    (s.pushed q i din).pbuf j = s.pbuf j := by
  rw [State.pushed, State.ended_pbuf, s.pbuf_setPbuf_of_ne hij]

/-- Writes of the two buffers commute. -/
theorem setPbuf_comm (s : State) {i j : ParserId} (hij : i ≠ j) (b b' : Bytes) :
    (s.setPbuf i b).setPbuf j b' = (s.setPbuf j b').setPbuf i b := by
  cases i with
  | p0 => cases j with
    | p0 => exact absurd rfl hij
    | p1 => rfl
  | p1 => cases j with
    | p0 => rfl
    | p1 => exact absurd rfl hij

/-- An answer and a write of a buffer commute. -/
theorem ended_setPbuf (s : State) (q : Port) (r : Response) (i : ParserId) (b : Bytes) :
    (s.ended q r).setPbuf i b = (s.setPbuf i b).ended q r := by
  cases i <;> rfl

/-- Of two answers on one port, the later one sets its record. -/
theorem ended_ended (s : State) (q q' : Port) (r r' : Response) :
    (s.ended q r).ended q' r' =
      { s with
        ports := s.ports.set s.cur q'
        answers := s.answers ++ [⟨s.cur, s.now, r⟩, ⟨s.cur, s.now, r'⟩] } := by
  simp [State.ended]

/-- The two buffers after a push of `c` on `i` and one of `d` on `j`, each computed from the buffer that `s` holds. -/
def State.pushBuffers (s : State) (i j : ParserId) (c d : Bytes) : State :=
  (s.setPbuf i (parserPush (s.pbuf i) c).buf).setPbuf j (parserPush (s.pbuf j) d).buf

/-- The buffers after two pushes do not depend on the order. -/
theorem pushBuffers_comm (s : State) {i j : ParserId} (hij : i ≠ j) (c d : Bytes) :
    s.pushBuffers i j c d = s.pushBuffers j i d c := setPbuf_comm s hij _ _

/-- The answer of port `cur` to a push of `din` on `i`, made now. -/
def State.pushAnswer (s : State) (i : ParserId) (din : Bytes) : Answer := ⟨s.cur, s.now, pushResponse (s.pbuf i) din⟩

/-- The state after port `cur`, whose record is `q`, has pushed `c` on `i` and then `d` on `j`: both buffers are
written, the port is free, and each answer is the one that `s` would give. -/
def State.pushedTwice (s : State) (q : Port) (i j : ParserId) (c d : Bytes) : State :=
  { s.pushBuffers i j c d with
    ports := s.ports.set s.cur { q with cmd := none }
    answers := s.answers ++ [s.pushAnswer i c, s.pushAnswer j d] }

theorem pushed_pushed (s : State) (q : Port) {i j : ParserId} (hij : i ≠ j) (c d : Bytes) :
    (s.pushed q i c).pushed { q with cmd := none } j d = s.pushedTwice q i j c d := by
  rw [State.pushed, pushed_pbuf_of_ne q hij, State.pushed, ended_setPbuf, ended_ended]
  simp [State.pushedTwice, State.pushBuffers, State.pushAnswer]

/-- Two pushes of one port on different instances, executed one after the other. -/
theorem exec_parserPush_twice (hq : s.ports[s.cur]? = some q) {x y : Byte} {i j : ParserId}
    (hi : parserArg x = some i) (hj : parserArg y = some j) (hij : i ≠ j) {c d : Bytes} (hc : c.length ≤ 65472)
    (hd : d.length ≤ 65472) :
    ∃ t, exec (.parserPush x c) s = .next t ∧ exec (.parserPush y d) t = .next (s.pushedTwice q i j c d) := by
  refine ⟨s.pushed q i c, exec_parserPush_eq hq hi hc, ?_⟩
  rw [exec_parserPush_eq (pushed_port hq i c) hj hd, pushed_pushed s q hij]

/-- Two pushes on different instances leave the same shared state in both orders. -/
theorem pushedTwice_sameShared (s : State) (q : Port) {i j : ParserId} (hij : i ≠ j) (c d : Bytes) :
    SameShared (s.pushedTwice q i j c d) (s.pushedTwice q j i d c) := by
  simp only [State.pushedTwice, pushBuffers_comm s hij, SameShared, and_self]

end

/-- Settles O33: each order gives the two answers that the first state determines, and the same buffers. -/
theorem parserInstancesCommute : Obligations.ParserInstancesCommute := by
  intro c0 c1 s q hq h0 h1
  have hne : ParserId.p0 ≠ ParserId.p1 := nofun
  obtain ⟨t, ht, hu⟩ := exec_parserPush_twice hq (x := 0x00) (y := 0x01) rfl rfl hne h0 h1
  obtain ⟨v, hv, hw⟩ := exec_parserPush_twice hq (x := 0x01) (y := 0x00) rfl rfl hne.symm h1 h0
  exact ⟨t, _, v, _, _, _, ht, hu, hv, hw, rfl, rfl, pushedTwice_sameShared s q hne c0 c1, rfl⟩

end Sys2Proof.Machine

namespace Sys2Proof

/-! ## The decoder and the encoder -/

/-- Decoding a string that holds a header: the operand bytes that the header announces must be there (R74, R76). -/
theorem decode_header (opc arg l1 l0 : Byte) (rest : Bytes) :
    decode (opc :: arg :: l1 :: l0 :: rest) =
      if rest.length < dinLen opc (l1 ++ l0) then
        .error (.operandsIncomplete (dinLen opc (l1 ++ l0)) rest.length)
      else
        .ok (ofHeader opc arg (l1 ++ l0) (rest.take (dinLen opc (l1 ++ l0))), rest.drop (dinLen opc (l1 ++ l0))) := rfl

/-- Fewer than four bytes hold no header (R71). -/
theorem decode_short {bs : Bytes} (h : bs.length < 4) : decode bs = .error (.headerIncomplete bs.length) := by
  match bs with
  | [] | [_] | [_, _] | [_, _, _] => rfl
  | _ :: _ :: _ :: _ :: _ => simp only [List.length_cons] at h; omega

/-- A string of four bytes or more starts with a header. -/
theorem exists_header {bs : Bytes} (h : 4 ≤ bs.length) :
    ∃ (opc arg l1 l0 : Byte) (rest : Bytes), bs = opc :: arg :: l1 :: l0 :: rest := by
  match bs with
  | [] | [_] | [_, _] | [_, _, _] => simp at h
  | opc :: arg :: l1 :: l0 :: rest => exact ⟨opc, arg, l1, l0, rest, rfl⟩

/-- All that decoding a command can have been: a header, the operand bytes it announces, and what is left. -/
theorem decode_eq_ok {bs rest : Bytes} {i : Instr} (h : decode bs = .ok (i, rest)) :
    ∃ (opc arg l1 l0 : Byte) (din : Bytes), bs = opc :: arg :: l1 :: l0 :: (din ++ rest) ∧
      din.length = dinLen opc (l1 ++ l0) ∧ i = ofHeader opc arg (l1 ++ l0) din := by
  by_cases hlen : bs.length < 4
  · simp [decode_short hlen] at h
  · obtain ⟨opc, arg, l1, l0, more, rfl⟩ := exists_header (Nat.not_lt.1 hlen)
    rw [decode_header] at h
    split at h
    · cases h
    · cases h
      refine ⟨opc, arg, l1, l0, _, by rw [List.take_append_drop], ?_, rfl⟩
      rw [List.length_take]
      omega

/-- A header and the bytes it announces are decoded, whatever follows (R74, R75). -/
theorem decode_append {opc arg l1 l0 : Byte} {din : Bytes} (h : dinLen opc (l1 ++ l0) = din.length) (rest : Bytes) :
    decode (opc :: arg :: l1 :: l0 :: (din ++ rest)) = .ok (ofHeader opc arg (l1 ++ l0) din, rest) := by
  rw [decode_header, h, if_neg (by simp), List.take_left, List.drop_left]

/-! ### The fields of a command -/

/-- OPC tells every command apart, and LEN announces its operand bytes. -/
theorem ofHeader_fields {i : Instr} (h : i.wf = true) :
    ofHeader i.opcode i.argByte i.lenField i.din = i ∧ dinLen i.opcode i.lenField = i.din.length := by
  have hfields : Laws.Fields.Statement i := by
    cases i with
    | nop a d => exact Laws.Fields.nop a d
    | crcClear a d => exact Laws.Fields.crcClear a d
    | crcFeed a d => exact Laws.Fields.crcFeed a d
    | crcRead a d => exact Laws.Fields.crcRead a d
    | frameEncode a d => exact Laws.Fields.frameEncode a d
    | frameDecode a d => exact Laws.Fields.frameDecode a d
    | parserPush a d => exact Laws.Fields.parserPush a d
    | parserReset a d => exact Laws.Fields.parserReset a d
    | parserLevel a d => exact Laws.Fields.parserLevel a d
    | envEncode a d => exact Laws.Fields.envEncode a d
    | envDecode a d => exact Laws.Fields.envDecode a d
    | xcvrSend a d => exact Laws.Fields.xcvrSend a d
    | xcvrRecv a m => exact Laws.Fields.xcvrRecv a m
    | cfgRead a d => exact Laws.Fields.cfgRead a d
    | cfgWrite a d => exact Laws.Fields.cfgWrite a d
    | reserved o a d => exact Laws.Fields.reserved o a d
  exact hfields h

/-- The two bytes of a LEN that was read from a header. -/
theorem u16be_append (h l : Byte) : u16be (h ++ l) = [h, l] := by
  have hh := h.isLt
  have hl := l.isLt
  rw [u16be_eq]
  simp only [List.cons.injEq, and_true]
  constructor <;> apply BitVec.eq_of_toNat_eq <;>
    simp only [BitVec.extractLsb'_toNat, append_toNat, Nat.shiftRight_eq_div_pow] <;> omega

/-- The command of a header carries the header's OPC and ARG; a reserved one has no OPC of R77 (R78). -/
theorem ofHeader_opcode (opc arg : Byte) (len : Half) (din : Bytes) :
    (ofHeader opc arg len din).opcode = opc ∧ (ofHeader opc arg len din).argByte = arg ∧
      (ofHeader opc arg len din).opcodeOk = true := by
  unfold ofHeader
  split
  case h_16 h00 h10 h11 h12 h20 h21 h30 h31 h32 h40 h41 h50 h51 h60 h61 =>
    refine ⟨rfl, rfl, ?_⟩
    simpa [Instr.opcodeOk, definedOpcodes] using
      ⟨h00, h10, h11, h12, h20, h21, h30, h31, h32, h40, h41, h50, h51, h60, h61⟩
  all_goals exact ⟨rfl, rfl, rfl⟩

/-- With as many operand bytes as a header announces, its command carries them and the header's LEN. -/
theorem ofHeader_lenField {opc arg : Byte} {len : Half} {din : Bytes} (h : din.length = dinLen opc len) :
    (ofHeader opc arg len din).lenField = len ∧ (ofHeader opc arg len din).din = din := by
  unfold ofHeader
  split
  case h_13 =>
    have hnil : din = [] := List.length_eq_zero_iff.1 h
    exact ⟨rfl, hnil.symm⟩
  case h_16 h51 _ _ =>
    have hlen : din.length = len.toNat := h.trans (if_neg h51)
    exact ⟨by simp [Instr.lenField, hlen], rfl⟩
  all_goals
    have hlen : din.length = len.toNat := h
    exact ⟨by simp [Instr.lenField, hlen], rfl⟩

/-- No header announces more bytes than LEN counts (R71, R74). -/
theorem dinLen_le (opc : Byte) (len : Half) : dinLen opc len ≤ 65535 := by
  have := len.isLt
  unfold dinLen
  split <;> omega

theorem wf_ofHeader {opc arg : Byte} {len : Half} {din : Bytes} (h : din.length = dinLen opc len) :
    (ofHeader opc arg len din).wf = true := by
  obtain ⟨-, -, hopc⟩ := ofHeader_opcode opc arg len din
  obtain ⟨-, hdin⟩ := ofHeader_lenField (arg := arg) h
  have hle : din.length ≤ 65535 := h ▸ dinLen_le opc len
  simp [Instr.wf, hopc, Instr.dinOk, hdin, hle]

/-- The command of a header and the bytes it announces is encoded as just those bytes. -/
theorem encode_ofHeader {opc arg l1 l0 : Byte} {din : Bytes} (h : din.length = dinLen opc (l1 ++ l0)) :
    encode (ofHeader opc arg (l1 ++ l0) din) = opc :: arg :: l1 :: l0 :: din := by
  obtain ⟨hopc, harg, -⟩ := ofHeader_opcode opc arg (l1 ++ l0) din
  obtain ⟨hlen, hdin⟩ := ofHeader_lenField (arg := arg) h
  simp [encode_head, hopc, harg, hlen, hdin, u16be_append]

/-- A header with its operand bytes, or with OPC 0x51, is decoded, and no other is (R74, R76). -/
theorem decode_ok_iff (opc arg l1 l0 : Byte) (rest : Bytes) :
    (∃ r, decode (opc :: arg :: l1 :: l0 :: rest) = .ok r) ↔ dinLen opc (l1 ++ l0) ≤ rest.length := by
  rw [decode_header]
  split
  · simp; omega
  · simp; omega

/-- DINLEN bytes are there: none for OPC 0x51, LEN of them otherwise (R74). -/
theorem dinLen_le_iff (opc l1 l0 : Byte) (n : Nat) :
    dinLen opc (l1 ++ l0) ≤ n ↔ (opc = 0x51 ∨ l1.toNat * 256 + l0.toNat ≤ n) := by
  by_cases h : opc = 0x51#8
  · simp [dinLen, h]
  · simp [dinLen, h, append_toNat]

end Sys2Proof

namespace Sys2Proof.Machine

/-- Settles O1: the header's LEN announces just the operand bytes, and OPC gives back the command. -/
theorem decodeOfEncode : Obligations.DecodeOfEncode := by
  intro i rest hwf
  obtain ⟨hi, hlen⟩ := ofHeader_fields hwf
  rw [← half_of_u16be i.lenField] at hi hlen
  have hbytes : encode i ++ rest =
      i.opcode :: i.argByte :: i.lenField.extractLsb' 8 8 :: i.lenField.extractLsb' 0 8 :: (i.din ++ rest) := by
    simp [encode_head, u16be_eq]
  rw [hbytes, decode_append hlen, hi]

/-- Settles O2: what is decoded is the command of a header and the bytes that the header announces. -/
theorem decodeIsExact : Obligations.DecodeIsExact := by
  refine ⟨fun bs i rest h => ?_, fun bs => decode_short, fun opc arg l1 l0 rest => ?_⟩
  · obtain ⟨opc, arg, l1, l0, din, rfl, hlen, rfl⟩ := decode_eq_ok h
    exact ⟨wf_ofHeader hlen, by simp [encode_ofHeader hlen]⟩
  · exact (decode_ok_iff opc arg l1 l0 rest).trans (dinLen_le_iff opc l1 l0 rest.length)

/-- Settles O3: each string is the encoding of its command, and what follows. -/
theorem decodeKnownCommands : Obligations.DecodeKnownCommands :=
  ⟨decodeOfEncode (.crcFeed 0x00 [0x31, 0x32, 0x33]) [] rfl, decodeOfEncode (.parserReset 0x01 []) [] rfl,
    decodeOfEncode (.xcvrRecv 0x00 2) [0x00] rfl,
    decodeOfEncode (.cfgWrite 0x01 [0x00, 0x06, 0x68, 0xA0]) [] rfl,
    decodeOfEncode (.reserved 0x13 0x00 [0xAA, 0xBB]) [0x00, 0x00, 0x00, 0x00] rfl⟩

end Sys2Proof.Machine

namespace Sys2Proof.Machine

/-! ## The commands, form by form -/

theorem isSync_eq_false_iff (b : Byte) : isSync b = false ↔ b ∉ Config.syncSet := by
  rw [← isSync_iff, Bool.not_eq_true]

theorem isPtype_eq_false_iff (t : Byte) : isPtype t = false ↔ t ∉ Config.ptypes := by
  rw [← isPtype_iff, Bool.not_eq_true]

theorem isExt_eq_false_iff (t : Byte) : isExt t = false ↔ t.toNat < 0x28 := by
  rw [← Bool.not_eq_true, isExt_iff, Nat.not_le]

/-- ARG above 1 names no parser instance (R77). -/
theorem parserArg_eq_none {arg : Byte} (h : 2 ≤ arg.toNat) : parserArg arg = none := by
  have h0 : arg ≠ 0#8 := by rintro rfl; simp at h
  have h1 : arg ≠ 1#8 := by rintro rfl; simp at h
  simp [parserArg, h0, h1]

/-! ### The frame encoder's checks (R122) -/

section
variable {sync type : Byte} {rest : Bytes}

theorem frameEncode_eShort {d : Bytes} (h : d.length < 2) : frameEncode d = .error .eShort := by
  match d with
  | [] | [_] => rfl
  | _ :: _ :: _ => simp only [List.length_cons] at h; omega

theorem frameEncode_eSync (h : sync ∉ Config.syncSet) : frameEncode (sync :: type :: rest) = .error .eSync := by
  simp [frameEncode, (isSync_eq_false_iff sync).2 h]

theorem frameEncode_eExtShort (hs : sync ∈ Config.syncSet) (hx : 0x28 ≤ type.toNat)
    (hlen : (sync :: type :: rest).length < 4) : frameEncode (sync :: type :: rest) = .error .eExtShort := by
  simp only [frameEncode, (isSync_iff sync).2 hs, (isExt_iff type).2 hx, hlen]
  rfl

/-- A type that is not extended, or addresses for one that is, pass the check of the type (R122). -/
theorem extShort_eq_false {type : Byte} {n : Nat} (h : type.toNat < 0x28 ∨ 4 ≤ n) :
    (isExt type && decide (n < 4)) = false := by
  obtain hx | hlen := h
  · rw [(isExt_eq_false_iff type).2 hx, Bool.false_and]
  · rw [decide_eq_false (Nat.not_lt.2 hlen), Bool.and_false]

theorem frameEncode_eTooLong (hs : sync ∈ Config.syncSet)
    (hx : type.toNat < 0x28 ∨ 4 ≤ (sync :: type :: rest).length) (hlen : 62 < (sync :: type :: rest).length) :
    frameEncode (sync :: type :: rest) = .error .eTooLong := by
  simp only [frameEncode, (isSync_iff sync).2 hs, extShort_eq_false hx, Config.lenMax, if_pos hlen]
  rfl

theorem frameEncode_ok (hs : sync ∈ Config.syncSet)
    (hx : type.toNat < 0x28 ∨ 4 ≤ (sync :: type :: rest).length) (hlen : (sync :: type :: rest).length ≤ 62) :
    frameEncode (sync :: type :: rest) =
      .ok ([sync, BitVec.ofNat 8 (sync :: type :: rest).length, type] ++ rest ++ [crc8 (type :: rest)]) := by
  simp only [frameEncode, (isSync_iff sync).2 hs, extShort_eq_false hx, Config.lenMax, if_neg (Nat.not_lt.2 hlen)]
  rfl

end

/-! ### The envelope encoder's checks (R180) -/

section
variable {t : Byte} {ts payload : Bytes}

theorem envEncode_eTooLong (ht : t ∈ Config.ptypes) (hlen : 65523 < payload.length) :
    envEncode t ts payload = .error .eTooLong := by
  simp only [envEncode, (isPtype_iff t).2 ht, Config.envPayloadMax, if_pos hlen]
  rfl

theorem envEncode_ok (ht : t ∈ Config.ptypes) (hlen : payload.length ≤ 65523) :
    envEncode t ts payload = .ok (t :: ts ++ u16be (BitVec.ofNat 16 payload.length) ++ payload) := by
  simp only [envEncode, (isPtype_iff t).2 ht, Config.envPayloadMax, if_neg (Nat.not_lt.2 hlen)]
  rfl

end

/-- The big-endian bytes of a number that 16 bits count. -/
theorem exists_u16be {n : Nat} (h : n ≤ 65535) :
    ∃ hi lo : Byte, hi.toNat * 256 + lo.toNat = n ∧ u16be (BitVec.ofNat 16 n) = [hi, lo] := by
  refine ⟨_, _, ?_, u16be_eq _⟩
  rw [← append_toNat, half_of_u16be, BitVec.toNat_ofNat, Nat.mod_eq_of_lt (by omega)]

/-! ### The answers -/

section
variable {s : State} {q : Port} (hq : s.ports[s.cur]? = some q)
include hq

theorem exec_nop_ok : exec (.nop 0x00 []) s = .next (s.okWith q 0x00 []) := respond_eq hq .ok 0x00 []

theorem exec_nop_eArg {arg : Byte} {din : Bytes} (h : arg ≠ 0x00 ∨ din ≠ []) :
    exec (.nop arg din) s = .next (s.errWith q .eArg) := by
  rw [exec, execNop, if_pos (h.imp_right fun hd => mt List.length_eq_zero_iff.1 hd)]
  exact raise_eq hq .eArg

theorem exec_reserved (opc arg : Byte) (din : Bytes) :
    exec (.reserved opc arg din) s = .next (s.errWith q .eOpcode) := raise_eq hq .eOpcode

theorem exec_crcClear_ok : exec (.crcClear 0x00 []) s = .next (s.okWith { q with crc := 0x00 } 0x00 []) :=
  respond_setCurCrc hq .ok 0x00 [] 0x00

theorem exec_crcClear_eArg {arg : Byte} {din : Bytes} (h : arg ≠ 0x00 ∨ din ≠ []) :
    exec (.crcClear arg din) s = .next (s.errWith q .eArg) := by
  rw [exec, execCrcClear, if_pos (h.imp_right fun hd => mt List.length_eq_zero_iff.1 hd)]
  exact raise_eq hq .eArg

theorem exec_crcFeed_ok (din : Bytes) :
    exec (.crcFeed 0x00 din) s =
      .next (s.okWith { q with crc := crc8From q.crc din } (crc8From q.crc din) []) := by
  rw [exec, execCrcFeed, if_neg (not_not.2 rfl), curCrc_eq hq]
  exact respond_setCurCrc hq .ok _ [] _

theorem exec_crcFeed_eArg {arg : Byte} (h : arg ≠ 0x00) (din : Bytes) :
    exec (.crcFeed arg din) s = .next (s.errWith q .eArg) := by
  rw [exec, execCrcFeed, if_pos h]
  exact raise_eq hq .eArg

theorem exec_crcRead_ok : exec (.crcRead 0x00 []) s = .next (s.okWith q q.crc []) := by
  rw [exec, execCrcRead, if_neg (by simp), curCrc_eq hq]
  exact respond_eq hq .ok _ []

theorem exec_crcRead_eArg {arg : Byte} {din : Bytes} (h : arg ≠ 0x00 ∨ din ≠ []) :
    exec (.crcRead arg din) s = .next (s.errWith q .eArg) := by
  rw [exec, execCrcRead, if_pos (h.imp_right fun hd => mt List.length_eq_zero_iff.1 hd)]
  exact raise_eq hq .eArg

theorem exec_frameEncode_eArg {arg : Byte} (h : arg ≠ 0x00) (din : Bytes) :
    exec (.frameEncode arg din) s = .next (s.errWith q .eArg) := by
  rw [exec, execFrameEncode, if_pos h]
  exact raise_eq hq .eArg

theorem exec_frameEncode_error {din : Bytes} {e : Status} (h : frameEncode din = .error e) :
    exec (.frameEncode 0x00 din) s = .next (s.errWith q e) := by
  rw [exec, execFrameEncode, if_neg (not_not.2 rfl), h]
  exact raise_eq hq e

theorem exec_frameEncode_ok {din f : Bytes} (h : frameEncode din = .ok f) :
    exec (.frameEncode 0x00 din) s = .next (s.okWith q 0x00 f) := by
  rw [exec, execFrameEncode, if_neg (not_not.2 rfl), h]
  exact respond_eq hq .ok 0x00 f

theorem exec_parserPush_eArg {arg : Byte} {din : Bytes} (h : 2 ≤ arg.toNat ∨ 65472 < din.length) :
    exec (.parserPush arg din) s = .next (s.errWith q .eArg) := by
  rw [exec, execParserPush]
  cases hi : parserArg arg with
  | none => exact raise_eq hq .eArg
  | some i =>
    have hlen : 65472 < din.length := h.resolve_left fun h2 => by simp [parserArg_eq_none h2] at hi
    simpa only [Config.pushMax, if_pos hlen] using raise_eq hq .eArg

theorem exec_envEncode_ePtype {arg : Byte} (h : arg ∉ Config.ptypes) (din : Bytes) :
    exec (.envEncode arg din) s = .next (s.errWith q .ePtype) := by
  rw [exec, execEnvEncode, (isPtype_eq_false_iff arg).2 h]
  exact raise_eq hq .ePtype

theorem exec_envEncode_eShort {arg : Byte} {din : Bytes} (h : arg ∈ Config.ptypes) (hlen : din.length < 8) :
    exec (.envEncode arg din) s = .next (s.errWith q .eShort) := by
  simpa only [exec, execEnvEncode, (isPtype_iff arg).2 h, Bool.not_true, Bool.false_eq_true, if_false,
    Config.tsLen, if_pos hlen] using raise_eq hq .eShort

/-- With a packet type and a whole timestamp, `ENV_ENCODE` encodes what follows the timestamp (R181). -/
theorem exec_envEncode_append {arg : Byte} {ts payload : Bytes} (h : arg ∈ Config.ptypes) (hts : ts.length = 8) :
    (∀ e, envEncode arg ts payload = .error e →
      exec (.envEncode arg (ts ++ payload)) s = .next (s.errWith q e)) ∧
    ∀ r, envEncode arg ts payload = .ok r →
      exec (.envEncode arg (ts ++ payload)) s = .next (s.okWith q 0x00 r) := by
  have hlen : ¬ (ts ++ payload).length < 8 := by rw [List.length_append]; omega
  have hslice : slice (ts ++ payload) 0 7 = ts := List.take_left' hts
  have hdrop : (ts ++ payload).drop 8 = payload := List.drop_left' hts
  simp only [exec, execEnvEncode, (isPtype_iff arg).2 h, Bool.not_true, Bool.false_eq_true, if_false, Config.tsLen,
    if_neg hlen, hslice, hdrop]
  refine ⟨fun e he => ?_, fun r hr => ?_⟩
  · rw [he]
    exact raise_eq hq e
  · rw [hr]
    exact respond_eq hq .ok 0x00 r

end

/-- Settles O12. -/
theorem nopAndReservedAnswer : Obligations.NopAndReservedAnswer := by
  intro s q opc arg din hq
  exact ⟨exec_nop_ok hq, exec_nop_eArg hq, exec_reserved hq opc arg din⟩

/-- Settles O13: after the clear the port is there with an accumulator of 0, and the feed starts from it. -/
theorem crcCommandsAnswer : Obligations.CrcCommandsAnswer := by
  intro s q arg din hq
  refine ⟨exec_crcClear_ok hq, exec_crcFeed_ok hq din, exec_crcRead_ok hq, fun h => exec_crcFeed_eArg hq h din,
    fun h => ⟨exec_crcClear_eArg hq h, exec_crcRead_eArg hq h⟩, ?_⟩
  have hp : s.cur < s.ports.length := (List.getElem?_eq_some_iff.1 hq).1
  have hcleared :
      (s.okWith { q with crc := 0x00 } 0x00 []).ports[s.cur]? = some { q with crc := 0x00, cmd := none } := by
    simp [State.okWith, hp]
  exact ⟨_, _, rfl, exec_crcClear_ok hq, hcleared, exec_crcFeed_ok hcleared din⟩

/-- Settles O18, check by check. -/
theorem frameEncodeAnswers : Obligations.FrameEncodeAnswers := by
  intro s q arg din hq
  refine ⟨fun h => exec_frameEncode_eArg hq h din, fun h => exec_frameEncode_error hq (frameEncode_eShort h), ?_⟩
  rintro sync type rest rfl
  refine ⟨fun hs => ?_, fun hs ⟨hx, hlen⟩ => ?_, fun hs hx hlen => ?_, fun hs hx hlen => ?_⟩
  · exact exec_frameEncode_error hq (frameEncode_eSync hs)
  · exact exec_frameEncode_error hq (frameEncode_eExtShort hs hx hlen)
  · exact exec_frameEncode_error hq (frameEncode_eTooLong hs hx hlen)
  · exact exec_frameEncode_ok hq (frameEncode_ok hs hx hlen)

/-- Settles O22: ARG names the instance, and the push leaves that one's buffer. -/
theorem parserPushAnswers : Obligations.ParserPushAnswers := by
  intro s q arg din hq
  exact ⟨exec_parserPush_eArg hq, fun hlen =>
    ⟨exec_parserPush_eq hq (i := .p0) rfl hlen, exec_parserPush_eq hq (i := .p1) rfl hlen⟩⟩

/-- Settles O34, check by check. -/
theorem envEncodeAnswers : Obligations.EnvEncodeAnswers := by
  intro s q arg din hq
  refine ⟨fun h => exec_envEncode_ePtype hq h din, fun h => ⟨exec_envEncode_eShort hq h, ?_⟩⟩
  rintro ts payload rfl hts
  obtain ⟨herror, hok⟩ := exec_envEncode_append hq (payload := payload) h hts
  refine ⟨fun hlen => herror _ (envEncode_eTooLong h hlen), fun hlen => ?_⟩
  obtain ⟨hi, lo, hn, hbytes⟩ := exists_u16be (n := payload.length) (by omega)
  exact ⟨hi, lo, hn, hok _ (by rw [envEncode_ok h hlen, hbytes]; rfl)⟩

/-! ## One answer or one request -/

/-- A command that is answered at once leaves one answer more, on its port, which has no command any more; what it waits
for and its bytes are untouched. -/
theorem Ends.answered {s t : State} {q : Port} (h : Ends s q t) :
    ∃ (resp : Response) (q' : Port), t.answers = s.answers ++ [⟨s.cur, s.now, resp⟩] ∧
      t.ports = s.ports.set s.cur q' ∧ q'.cmd = none ∧ q'.pend = q.pend ∧ q'.inbuf = q.inbuf := by
  cases h with
  | plain resp => exact ⟨resp, _, rfl, rfl, rfl, rfl, rfl⟩
  | crc c aux => exact ⟨_, _, rfl, rfl, rfl, rfl, rfl⟩
  | pbuf i b aux dout => exact ⟨⟨.ok, aux, dout⟩, { q with cmd := none }, by simp, by simp, rfl, rfl, rfl⟩
  | status v => exact ⟨_, _, rfl, rfl, rfl, rfl, rfl⟩

/-- Settles O8: every command makes its request and holds, or is answered at once. -/
theorem oneAnswerOrOneRequest : Obligations.OneAnswerOrOneRequest := by
  intro i s q hq
  obtain ⟨r, hr, hx⟩ | ⟨hr, t, hx, hends⟩ := exec_cases i hq
  · refine ⟨fun r' hr' => ?_, fun hnone => by simp [hnone] at hr⟩
    obtain rfl : r = r' := Option.some.inj (hr.symm.trans hr')
    exact hx
  · refine ⟨fun r' hr' => by simp [hr] at hr', fun _ => ?_⟩
    obtain ⟨resp, q', hans, hports, hq'⟩ := hends.answered
    exact ⟨t, resp, q', hx, hans, hports, hq'⟩

end Sys2Proof.Machine

namespace Sys2Proof.Machine

/-! ## Every answer is one that a header can carry -/

/-! ### The lengths of what the codecs and the parser give out -/

/-- A check that was passed: it did not raise its error. -/
theorem ite_error_eq_ok {α : Type} {c : Prop} [Decidable c] {e : Status} {x : Except Status α} {a : α} :
    (if c then .error e else x) = .ok a ↔ ¬ c ∧ x = .ok a := by
  split <;> simp [*]

/-- A wire frame is no longer than the encoder's limit and two bytes more (R80, R122). -/
theorem frameEncode_length_le {d f : Bytes} (h : frameEncode d = .ok f) : f.length ≤ 64 := by
  match d with
  | [] | [_] => cases h
  | sync :: type :: rest =>
    simp only [frameEncode, ite_error_eq_ok, Except.ok.injEq] at h
    obtain ⟨-, -, hlen, rfl⟩ := h
    simp only [Config.lenMax, List.length_cons, List.length_append, List.length_nil] at hlen ⊢
    omega

/-- A field string is no longer than the frame's length field can say (R124). -/
theorem frameDecode_length_le {f d : Bytes} {ext : Bool} (h : frameDecode f = .ok (d, ext)) : d.length ≤ 256 := by
  simp only [frameDecode, ite_error_eq_ok, Except.ok.injEq, Prod.mk.injEq] at h
  obtain ⟨-, -, -, -, -, -, rfl, -⟩ := h
  have hlen := (f.getD 1 0).isLt
  simp only [List.length_cons, slice_length]
  omega

/-- An envelope is no longer than its header and the largest payload (R180). -/
theorem envEncode_length_le {t : Byte} {ts payload r : Bytes} (h : envEncode t ts payload = .ok r) :
    r.length ≤ ts.length + 65526 := by
  simp only [envEncode, ite_error_eq_ok, Except.ok.injEq] at h
  obtain ⟨-, hlen, rfl⟩ := h
  simp only [Config.envPayloadMax, List.length_cons, List.length_append, u16be_length] at hlen ⊢
  omega

/-- A decoded envelope is no longer than a timestamp and the largest payload (R182). -/
theorem envDecode_length_le {e : Bytes} {v : Envelope} (h : envDecode e = .ok v) :
    (v.ts ++ v.payload).length ≤ 65531 := by
  simp only [envDecode, ite_error_eq_ok, Except.ok.injEq] at h
  obtain ⟨-, hd, -, hlen, rfl⟩ := h
  simp only [ne_eq, not_not, Config.envHdrLen, Config.envPayloadMax] at hd hlen
  simp only [List.length_append, slice_length, List.length_drop]
  omega

/-- What the scan gives out and what it keeps are no more than what it was given. -/
theorem parserScan_length_le (b : Bytes) : (parserScan b).out.length + (parserScan b).buf.length ≤ b.length := by
  induction hn : b.length using Nat.strong_induction_on generalizing b with
  | _ n ih =>
    subst hn
    have hd := length_dropWhile_le' (fun x => !isSync x) b
    rw [parserScan_eq]
    cases h : b.dropWhile (fun x => !isSync x) with
    | nil => simp
    | cons x d =>
      cases d with
      | nil => simpa [h] using hd
      | cons l rest =>
        simp only [h, List.length_cons] at hd
        have hskip := ih _ (by simp only [List.length_cons]; omega) (l :: rest) rfl
        have htake := ih _ (by simp only [List.length_drop]; omega) (rest.drop l.toNat) rfl
        simp only [List.length_cons, List.length_drop] at hskip htake
        dsimp only
        split
        · omega
        · split
          · simpa using hd
          · split
            · simp only [List.length_cons, List.length_append, List.length_take]
              omega
            · omega

/-- The frames of a push on a buffer that meets R153 can be counted by RLEN (R158). -/
theorem parserPush_out_length_le {buf chunk : Bytes} (hbuf : bufferOk buf = true) (hlen : chunk.length ≤ 65472) :
    (parserPush buf chunk).out.length ≤ 65535 := by
  have hscan := parserScan_length_le (buf ++ chunk)
  have h63 := length_le_of_bufferOk hbuf
  rw [List.length_append] at hscan
  unfold parserPush
  omega

/-! ### The responses -/

theorem responseOk_ok (aux : Byte) {dout : Bytes} (h : dout.length ≤ 65535) : ResponseOk ⟨.ok, aux, dout⟩ :=
  ⟨h, fun hne => absurd rfl hne⟩

theorem responseOk_error (e : Status) : ResponseOk (Response.error e) := ⟨Nat.zero_le _, fun _ => ⟨rfl, rfl⟩⟩

/-- From `s` to `t` at most one answer is sent: now, on a port that is there, and one that R72 can carry. -/
def AnswersGrow (s t : State) : Prop :=
  t.answers = s.answers ∨
  ∃ p r, p < s.ports.length ∧ ResponseOk r ∧ t.answers = s.answers ++ [⟨p, s.now, r⟩]

section
variable {s t : State}

theorem respond_grow {st : Status} {aux : Byte} {dout : Bytes} (hr : ResponseOk ⟨st, aux, dout⟩)
    (h : respond st aux dout s = .next t) : AnswersGrow s t := by
  obtain ⟨q, hq, rfl⟩ := respond_next h
  exact .inr ⟨s.cur, _, (List.getElem?_eq_some_iff.1 hq).1, hr, rfl⟩

theorem respond_ok_grow {aux : Byte} {dout : Bytes} (hlen : dout.length ≤ 65535)
    (h : respond .ok aux dout s = .next t) : AnswersGrow s t := respond_grow (responseOk_ok aux hlen) h

theorem raise_grow {e : Status} (h : raise e s = .next t) : AnswersGrow s t := respond_grow (responseOk_error e) h

theorem request_grow {r : Request} (h : request r s = .next t) : AnswersGrow s t := by
  obtain ⟨q, -, rfl⟩ := request_next h
  exact .inl rfl

theorem respond_setCurCrc_grow {aux c : Byte} (h : respond .ok aux [] (s.setCurCrc c) = .next t) :
    AnswersGrow s t := by
  simpa [AnswersGrow] using respond_ok_grow (Nat.zero_le _) h

theorem respond_setPbuf_grow {aux : Byte} {dout b : Bytes} {j : ParserId} (hlen : dout.length ≤ 65535)
    (h : respond .ok aux dout (s.setPbuf j b) = .next t) : AnswersGrow s t := by
  simpa [AnswersGrow] using respond_ok_grow hlen h

/-! ### Each meaning -/

theorem execNop_grow {arg : Byte} {din : Bytes} (h : execNop arg din s = .next t) : AnswersGrow s t := by
  unfold execNop at h; split at h
  · exact raise_grow h
  · exact respond_ok_grow (Nat.zero_le _) h

theorem execCrcClear_grow {arg : Byte} {din : Bytes} (h : execCrcClear arg din s = .next t) : AnswersGrow s t := by
  unfold execCrcClear at h; split at h
  · exact raise_grow h
  · exact respond_setCurCrc_grow h

theorem execCrcFeed_grow {arg : Byte} {din : Bytes} (h : execCrcFeed arg din s = .next t) : AnswersGrow s t := by
  unfold execCrcFeed at h; split at h
  · exact raise_grow h
  · exact respond_setCurCrc_grow h

theorem execCrcRead_grow {arg : Byte} {din : Bytes} (h : execCrcRead arg din s = .next t) : AnswersGrow s t := by
  unfold execCrcRead at h; split at h
  · exact raise_grow h
  · exact respond_ok_grow (Nat.zero_le _) h

theorem execFrameEncode_grow {arg : Byte} {din : Bytes} (h : execFrameEncode arg din s = .next t) :
    AnswersGrow s t := by
  unfold execFrameEncode at h; split at h
  · exact raise_grow h
  · split at h
    · exact raise_grow h
    · rename_i hf
      exact respond_ok_grow ((frameEncode_length_le hf).trans (by decide)) h

theorem execFrameDecode_grow {arg : Byte} {din : Bytes} (h : execFrameDecode arg din s = .next t) :
    AnswersGrow s t := by
  unfold execFrameDecode at h; split at h
  · exact raise_grow h
  · split at h
    · exact raise_grow h
    · rename_i hd
      exact respond_ok_grow ((frameDecode_length_le hd).trans (by decide)) h

theorem execParserPush_grow {arg : Byte} {din : Bytes} (hbuf : ∀ i, bufferOk (s.pbuf i) = true)
    (h : execParserPush arg din s = .next t) : AnswersGrow s t := by
  unfold execParserPush at h; split at h
  · exact raise_grow h
  · rename_i i _
    split at h
    · exact raise_grow h
    · rename_i hlen
      exact respond_setPbuf_grow (parserPush_out_length_le (hbuf i) (Nat.not_lt.1 hlen)) h

theorem execParserReset_grow {arg : Byte} {din : Bytes} (h : execParserReset arg din s = .next t) :
    AnswersGrow s t := by
  unfold execParserReset at h; split at h
  · exact raise_grow h
  · split at h
    · exact raise_grow h
    · exact respond_setPbuf_grow (Nat.zero_le _) h

theorem execParserLevel_grow {arg : Byte} {din : Bytes} (h : execParserLevel arg din s = .next t) :
    AnswersGrow s t := by
  unfold execParserLevel at h; split at h
  · exact raise_grow h
  · split at h
    · exact raise_grow h
    · exact respond_ok_grow (Nat.zero_le _) h

theorem execEnvEncode_grow {arg : Byte} {din : Bytes} (h : execEnvEncode arg din s = .next t) : AnswersGrow s t := by
  unfold execEnvEncode at h; split at h
  · exact raise_grow h
  · split at h
    · exact raise_grow h
    · split at h
      · exact raise_grow h
      · rename_i r hr
        have hts : (slice din 0 7).length ≤ 8 := by simp
        have hlen := envEncode_length_le hr
        exact respond_ok_grow (by omega) h

theorem execEnvDecode_grow {arg : Byte} {din : Bytes} (h : execEnvDecode arg din s = .next t) : AnswersGrow s t := by
  unfold execEnvDecode at h; split at h
  · exact raise_grow h
  · split at h
    · exact raise_grow h
    · rename_i hv
      exact respond_ok_grow ((envDecode_length_le hv).trans (by decide)) h

theorem execXcvrSend_grow {arg : Byte} {din : Bytes} (h : execXcvrSend arg din s = .next t) : AnswersGrow s t := by
  unfold execXcvrSend at h; split at h
  · exact raise_grow h
  · exact request_grow h

theorem execXcvrRecv_grow {arg : Byte} {m : Half} (h : execXcvrRecv arg m s = .next t) : AnswersGrow s t := by
  unfold execXcvrRecv at h; split at h
  · exact raise_grow h
  · exact request_grow h

theorem execCfgRead_grow {arg : Byte} {din : Bytes} (h : execCfgRead arg din s = .next t) : AnswersGrow s t := by
  unfold execCfgRead at h; split at h
  · exact raise_grow h
  · split at h
    · exact raise_grow h
    · exact respond_ok_grow (by simp) h

theorem execCfgWrite_grow {arg : Byte} {din : Bytes} (h : execCfgWrite arg din s = .next t) : AnswersGrow s t := by
  unfold execCfgWrite at h; split at h
  · exact raise_grow h
  · split at h
    · exact raise_grow h
    · rename_i r _ _
      cases r with
      | ctrl => exact request_grow h
      | baud =>
        dsimp only at h; split at h
        · exact raise_grow h
        · exact request_grow h
      | settleUs => exact request_grow h
      | status => exact respond_ok_grow (s := s.writeStatus _) (Nat.zero_le _) h

/-- A command sends at most one answer, which R72 can carry as long as the parser buffers meet R153. -/
theorem exec_grow {i : Instr} (hbuf : ∀ j, bufferOk (s.pbuf j) = true) (h : exec i s = .next t) :
    AnswersGrow s t := by
  cases i with
  | nop a d => exact execNop_grow h
  | crcClear a d => exact execCrcClear_grow h
  | crcFeed a d => exact execCrcFeed_grow h
  | crcRead a d => exact execCrcRead_grow h
  | frameEncode a d => exact execFrameEncode_grow h
  | frameDecode a d => exact execFrameDecode_grow h
  | parserPush a d => exact execParserPush_grow hbuf h
  | parserReset a d => exact execParserReset_grow h
  | parserLevel a d => exact execParserLevel_grow h
  | envEncode a d => exact execEnvEncode_grow h
  | envDecode a d => exact execEnvDecode_grow h
  | xcvrSend a d => exact execXcvrSend_grow h
  | xcvrRecv a m => exact execXcvrRecv_grow h
  | cfgRead a d => exact execCfgRead_grow h
  | cfgWrite a d => exact execCfgWrite_grow h
  | reserved o a d => exact raise_grow h

end

/-! ### Each agent -/

section
variable {P : Config.Params} {s t : State}

theorem BuffersOk.pbuf (hs : BuffersOk P s) (j : ParserId) : bufferOk (s.pbuf j) = true := by
  obtain ⟨h0, h1, -⟩ := hs
  cases j with
  | p0 => exact h0
  | p1 => exact h1

/-- A step that sends at most one answer, as R72 has it, and gives the line to no port that is not there. -/
theorem AnswersOk.of_grow (hs : AnswersOk P s) (hcount : t.ports.length = s.ports.length)
    (howner : ∀ p, t.owner = some p → s.owner = some p ∨ p < s.ports.length) (hnow : s.now ≤ t.now)
    (hgrow : AnswersGrow s t) : AnswersOk P t := by
  obtain ⟨hports, hown, hall⟩ := hs
  have hold : ∀ a ∈ s.answers, a.port < P.nPorts ∧ a.time ≤ t.now ∧ ResponseOk a.resp := fun a ha =>
    let ⟨hport, htime, hresp⟩ := hall a ha
    ⟨hport, htime.trans hnow, hresp⟩
  refine ⟨hcount.trans hports, fun p hp => ?_, ?_⟩
  · obtain hp | hp := howner p hp
    · exact hown p hp
    · exact hports ▸ hp
  · obtain hans | ⟨p, r, hp, hr, hans⟩ := hgrow <;> rw [hans]
    · exact hold
    · rw [List.forall_mem_append, List.forall_mem_singleton]
      exact ⟨hold, hports ▸ hp, hnow, hr⟩

/-- A step that sends no answer and leaves the ports and the owner of the line. -/
theorem AnswersOk.of_same (hs : AnswersOk P s) (hcount : t.ports.length = s.ports.length) (howner : t.owner = s.owner)
    (hnow : s.now ≤ t.now) (hans : t.answers = s.answers) : AnswersOk P t :=
  hs.of_grow hcount (fun _ hp => .inl (howner ▸ hp)) hnow (.inl hans)

theorem AnswersOk.hostBytes (hs : AnswersOk P s) (p : Nat) (bs : Bytes) : AnswersOk P (s.hostBytes p bs) := by
  obtain ⟨h, -⟩ | ⟨q, -, -, h⟩ := hostBytes_cases s p bs <;> rw [h]
  · exact hs
  · exact hs.of_same List.length_set rfl le_rfl rfl

/-- The command a port has taken is executed with the answers, the time and the number of ports as they were. -/
theorem AnswersOk.portStep {p : Nat} (hb : BuffersOk P s) (hs : AnswersOk P s) (h : s.portStep p = .next t) :
    AnswersOk P t := by
  obtain rfl | ⟨i, u, hf, hx⟩ := portStep_cases h
  · exact hs
  · obtain ⟨q, rest, -, -, -, -, rfl⟩ := fetch_eq_some hf
    have hu : AnswersOk P { s with cur := p, ports := s.ports.set p { q with inbuf := rest, cmd := some i } } :=
      hs.of_same List.length_set rfl le_rfl rfl
    have k := exec_keeps hx
    obtain ⟨hnow, -⟩ := k.outside
    exact hu.of_grow k.count (fun p hp => .inl (k.owner ▸ hp)) hnow.ge
      (exec_grow (BuffersOk.pbuf (s := { s with cur := p, ports := _ }) hb) hx)

/-- The grant of a send makes a port of the block the owner; the other grants answer theirs (R206, R220, R225). -/
theorem AnswersOk.serve {p : Nat} (hs : AnswersOk P s) (hp : p < s.ports.length) (r : Request) :
    AnswersOk P (s.serve p r) := by
  cases r with
  | send d =>
    refine hs.of_grow (by simp [State.serve]) (fun p' hp' => .inr ?_) le_rfl (.inl rfl)
    obtain rfl : p = p' := by simpa [State.serve] using hp'
    exact hp
  | recv m =>
    have hlen : (s.polled m).length ≤ 65535 := by
      have := m.isLt
      simp only [State.polled, List.length_map, List.length_take]
      omega
    exact hs.of_grow (by simp [State.serve, State.grantRecv]) (fun _ => .inl) le_rfl
      (.inr ⟨p, _, hp, responseOk_ok 0x00 hlen, rfl⟩)
  | cfgw reg v =>
    have hcount : (s.grantCfgw p reg v).ports.length = s.ports.length := by simp [State.grantCfgw]
    cases reg <;>
      exact hs.of_grow hcount (fun _ => .inl) le_rfl (.inr ⟨p, _, hp, responseOk_ok 0x00 (Nat.zero_le _), rfl⟩)

theorem AnswersOk.grant (hs : AnswersOk P s) (p : Nat) : AnswersOk P (s.grant p) := by
  obtain h | ⟨q, r, -, -, hq, -, h⟩ := grant_cases s p <;> rw [h]
  · exact hs
  · exact hs.serve (List.getElem?_eq_some_iff.1 hq).1 r

/-- The end of a send answers the owner of the line, which is a port of the block (R213). -/
theorem AnswersOk.endRxSettle (hs : AnswersOk P s) : AnswersOk P s.endRxSettle := by
  have hcount : s.endRxSettle.ports.length = s.ports.length := by
    rw [State.endRxSettle_ports]; split <;> simp
  refine hs.of_grow hcount (by simp) (by simp) ?_
  cases ho : s.owner with
  | none => exact .inl (by simp [State.endRxSettle_answers, ho])
  | some o =>
    obtain ⟨hports, hown, -⟩ := hs
    exact .inr ⟨o, _, hports ▸ hown o ho, responseOk_ok 0x00 (Nat.zero_le _),
      by rw [State.endRxSettle_answers, ho]⟩

theorem AnswersOk.phaseEnd (hs : AnswersOk P s) : AnswersOk P (s.phaseEnd P) := by
  obtain h | ⟨-, -, ⟨-, h⟩ | ⟨-, h⟩ | ⟨-, h⟩⟩ := phaseEnd_cases P s <;> rw [h]
  · exact hs
  · exact hs.of_same rfl rfl le_rfl rfl
  · exact hs.of_same rfl rfl le_rfl rfl
  · exact hs.endRxSettle

theorem AnswersOk.lineStart (hs : AnswersOk P s) : AnswersOk P s.lineStart := by
  unfold State.lineStart; split
  · exact hs
  · exact hs.of_same rfl rfl le_rfl rfl

theorem AnswersOk.lineStop (hs : AnswersOk P s) (v : Byte) (framing : Bool) (drawn : Option Byte) :
    AnswersOk P (s.lineStop P v framing drawn) := by
  obtain h | h | ⟨x, -, -, h⟩ := lineStop_cases P s v framing drawn <;> rw [h]
  · exact hs
  · exact hs.of_same rfl rfl le_rfl rfl
  · exact hs.of_same (by simp) (by simp) (by simp) (by simp)

theorem AnswersOk.rstAssert (hs : AnswersOk P s) : AnswersOk P s.rstAssert := by
  obtain ⟨-, h⟩ | ⟨-, h⟩ := rstAssert_cases s <;> rw [h]
  · exact hs
  · exact hs.of_same rfl rfl le_rfl rfl

/-- The release of RST keeps the answers, and leaves N_PORTS ports and no owner of the line (R301). -/
theorem AnswersOk.rstRelease (hs : AnswersOk P s) : AnswersOk P (s.rstRelease P) := by
  cases hr : s.rst with
  | true =>
    obtain ⟨-, -, hall⟩ := hs
    rw [rstRelease_eq hr]
    exact ⟨by simp [resetWith_ports], nofun, hall⟩
  | false => simpa [State.rstRelease, hr] using hs

theorem AnswersOk.agentStep {e : Event} (hb : BuffersOk P s) (hs : AnswersOk P s) (h : agentStep P e s = .next t) :
    AnswersOk P t := by
  cases e with
  | host p bs => cases h; exact hs.hostBytes p bs
  | port p => exact hs.portStep hb h
  | grant p => cases h; exact hs.grant p
  | phaseEnd => cases h; exact hs.phaseEnd
  | lineStart => cases h; exact hs.lineStart
  | lineStop v framing drawn => cases h; exact hs.lineStop v framing drawn
  | clock d => exact hs.of_same (by cases h; simp) (by cases h; simp) (agentStep_now_le h) (by cases h; simp)
  | rstAssert => cases h; exact hs.rstAssert
  | rstRelease => cases h; exact hs.rstRelease

end

/-- Settles O54: every agent's step sends at most one answer, whose length the buffers and the operand limits bound. -/
theorem answersInvariant : Obligations.AnswersInvariant := by
  intro s t hb hs h
  have hboth : BuffersOk Config.params t ∧ AnswersOk Config.params t :=
    step_preserves (Inv := fun u => BuffersOk Config.params u ∧ AnswersOk Config.params u) (fun _ _ h => h)
      (fun _ _ _ ⟨hb, hs⟩ h => ⟨hb.agentStep h, hs.agentStep hb h⟩) ⟨hb, hs⟩ h
  exact hboth.2

end Sys2Proof.Machine

namespace Sys2Proof.Machine

/-! ## The CRC -/

/-! ### One shift (R100) -/

theorem crc8Shift_of_lt {c : Byte} (h : c.toNat < 128) : (crc8Shift c).toNat = 2 * c.toNat := by
  have hmsb : c.msb = false := by simpa [BitVec.msb_eq_decide] using h
  rw [crc8Shift, hmsb, if_neg Bool.false_ne_true, BitVec.toNat_shiftLeft, Nat.shiftLeft_eq]
  omega

/-- The x^8 terms of the doubled value and of the polynomial cancel. -/
theorem double_xor_poly_lt {n : Nat} (hlo : 128 ≤ n) (hhi : n < 256) : (2 * n) ^^^ 0x1D5 < 2 ^ 8 := by
  have hq : 2 * n / 2 ^ 8 = 0x1D5 / 2 ^ 8 := by omega
  have hdiv : ((2 * n) ^^^ 0x1D5) / 2 ^ 8 = 0 := by rw [Nat.xor_div_two_pow, hq, Nat.xor_self]
  omega

theorem crc8Shift_of_le {c : Byte} (h : 128 ≤ c.toNat) : (crc8Shift c).toNat = (2 * c.toNat) ^^^ 0x1D5 := by
  have hmsb : c.msb = true := by simpa [BitVec.msb_eq_decide] using h
  rw [crc8Shift, hmsb, if_pos rfl]
  calc ((c <<< 1) ^^^ Config.crcPoly).toNat
      = (2 * c.toNat) % 2 ^ 8 ^^^ 0x1D5 % 2 ^ 8 := by
        rw [BitVec.toNat_xor, BitVec.toNat_shiftLeft, Nat.shiftLeft_eq, Nat.mul_comm]; rfl
    _ = ((2 * c.toNat) ^^^ 0x1D5) % 2 ^ 8 := Nat.xor_mod_two_pow.symm
    _ = (2 * c.toNat) ^^^ 0x1D5 := Nat.mod_eq_of_lt (double_xor_poly_lt h c.isLt)

/-- Settles O17, by the bit that is shifted out. -/
theorem crcStepIsPolynomialReduction : Obligations.CrcStepIsPolynomialReduction := by
  refine ⟨fun c => ?_, fun _ _ => rfl⟩
  split
  · exact crc8Shift_of_le ‹_›
  · exact crc8Shift_of_lt (Nat.not_le.1 ‹_›)

/-- A shift is linear over GF(2) (R104): what is XORed in depends on bit 7 alone, which is itself linear. -/
theorem crc8Shift_xor (a b : Byte) : crc8Shift (a ^^^ b) = crc8Shift a ^^^ crc8Shift b := by
  simp only [crc8Shift, BitVec.msb_xor, BitVec.shiftLeft_xor_distrib]
  cases a.msb <;> cases b.msb
  · rfl
  · exact BitVec.xor_assoc _ _ _
  · change (a <<< 1) ^^^ (b <<< 1) ^^^ Config.crcPoly = (a <<< 1) ^^^ Config.crcPoly ^^^ (b <<< 1)
    ac_rfl
  · change (a <<< 1) ^^^ (b <<< 1) = (a <<< 1) ^^^ Config.crcPoly ^^^ ((b <<< 1) ^^^ Config.crcPoly)
    rw [BitVec.xor_assoc, xor_xor_cancel_comm_assoc]

/-- The polynomial has a constant term, so a shift makes 0 of no other value (R104). -/
theorem eq_zero_of_crc8Shift {c : Byte} (h : crc8Shift c = 0) : c = 0 := by
  have h0 : (crc8Shift c).toNat = 0 := by rw [h]; rfl
  apply BitVec.eq_of_toNat_eq
  obtain hlt | hle := Nat.lt_or_ge c.toNat 128
  · rw [crc8Shift_of_lt hlt] at h0
    simpa using h0
  · rw [crc8Shift_of_le hle, Nat.xor_eq_zero_iff] at h0
    omega

theorem crc8Shift_injective : Function.Injective crc8Shift := fun a b h =>
  xor_eq_zero_iff.1 (eq_zero_of_crc8Shift (by rw [crc8Shift_xor, h, BitVec.xor_self]; rfl))

/-! ### One step (R100) -/

theorem crc8Step_eq_iterate (c b : Byte) : crc8Step c b = crc8Shift^[8] (c ^^^ b) := rfl

theorem crc8Step_xor (c c' b b' : Byte) : crc8Step (c ^^^ c') (b ^^^ b') = crc8Step c b ^^^ crc8Step c' b' := by
  have hlin := Function.Semiconj₂.iterate (op := (· ^^^ ·)) crc8Shift_xor 8
  rw [crc8Step_eq_iterate, show c ^^^ c' ^^^ (b ^^^ b') = (c ^^^ b) ^^^ (c' ^^^ b') by ac_rfl]
  exact hlin _ _

/-- A step loses nothing of the XOR of value and byte. -/
theorem crc8Step_inj {c c' b b' : Byte} : crc8Step c b = crc8Step c' b' ↔ c ^^^ b = c' ^^^ b' :=
  (crc8Shift_injective.iterate 8).eq_iff

/-- A step gives 0 just when the byte equals the value. -/
theorem crc8Step_eq_zero_iff {c b : Byte} : crc8Step c b = 0 ↔ c = b := by
  have h0 : crc8Step 0 0 = 0 := by decide
  rw [← h0, crc8Step_inj, BitVec.xor_self]
  exact xor_eq_zero_iff

/-! ### Byte strings (R101, R103, R104) -/

@[simp] theorem crc8From_nil (c : Byte) : crc8From c [] = c := rfl

@[simp] theorem crc8From_cons (c b : Byte) (s : Bytes) : crc8From c (b :: s) = crc8From (crc8Step c b) s := rfl

theorem crc8From_append (c : Byte) (s t : Bytes) : crc8From c (s ++ t) = crc8From (crc8From c s) t :=
  List.foldl_append

/-- Settles O14: the two equations of the fold, and its composition over a concatenation. -/
theorem crcIsALeftFold : Obligations.CrcIsALeftFold :=
  ⟨crc8From_nil, crc8From_cons, fun _ => rfl, crc8From_append⟩

theorem crc8_append (s t : Bytes) : crc8 (s ++ t) = crc8From (crc8 s) t := crc8From_append _ s t

theorem crc8_append_singleton_eq_zero_iff (s : Bytes) (c : Byte) : crc8 (s ++ [c]) = 0x00 ↔ crc8 s = c := by
  rw [crc8_append, crc8From_cons, crc8From_nil]
  exact crc8Step_eq_zero_iff

/-- Settles O15: the check byte is the last one folded in, and its step gives 0 just when it equals the CRC so far. -/
theorem crcResidueIsZero : Obligations.CrcResidueIsZero :=
  ⟨fun s => (crc8_append_singleton_eq_zero_iff s (crc8 s)).2 rfl, crc8_append_singleton_eq_zero_iff⟩

theorem crc8From_xor (c c' : Byte) (s e : Bytes) (h : s.length = e.length) :
    crc8From (c ^^^ c') (List.zipWith (· ^^^ ·) s e) = crc8From c s ^^^ crc8From c' e := by
  induction s generalizing c c' e with
  | nil => rw [List.length_eq_zero_iff.1 h.symm]; rfl
  | cons a s ih =>
    obtain _ | ⟨b, e⟩ := e
    · cases h
    · rw [List.zipWith_cons_cons, crc8From_cons, crc8Step_xor]
      exact ih _ _ e (Nat.succ.inj h)

/-- Different values stay different whatever bytes are folded into both. -/
theorem crc8From_injective (s : Bytes) : Function.Injective (crc8From · s) := by
  induction s with
  | nil => exact fun _ _ h => h
  | cons b s ih => exact fun c c' h => (BitVec.xor_left_inj b).1 (crc8Step_inj.1 (ih h))

/-- Of the strings that differ in one byte only, no two have the same CRC. -/
theorem crc8_append_cons_inj {pre post : Bytes} {b b' : Byte} :
    crc8 (pre ++ b :: post) = crc8 (pre ++ b' :: post) ↔ b = b' := by
  rw [crc8_append, crc8_append, crc8From_cons, crc8From_cons, (crc8From_injective post).eq_iff, crc8Step_inj,
    BitVec.xor_right_inj]

/-- A flipped bit is a different byte. -/
theorem xor_bit_ne (b : Byte) {k : Nat} (hk : k < 8) : b ^^^ (1#8 <<< k) ≠ b := by
  have hbit : (1#8 <<< k).getLsbD k = true := by simp [hk]
  rw [ne_eq, xor_left_eq_self_iff]
  intro h
  simp [h] at hbit

/-- Settles O16: the fold of linear steps is linear, and a flipped bit is another byte. -/
theorem crcDetectsEveryBitFlip : Obligations.CrcDetectsEveryBitFlip :=
  ⟨crc8From_xor 0 0, fun _ _ b _ hk => mt crc8_append_cons_inj.1 (xor_bit_ne b hk)⟩

/-! ### Valid frames (R103, R121) -/

/-- A slice up to the last byte but one, and the last byte. -/
theorem slice_append_getD {f : Bytes} {i j : Nat} (hi : i ≤ j + 1) (h : j + 2 = f.length) :
    slice f i j ++ [f.getD (j + 1) 0] = f.drop i := by
  have hj : j + 1 - i < (f.drop i).length := by rw [List.length_drop]; omega
  have hlast : f.getD (j + 1) 0 = (f.drop i)[j + 1 - i] := by
    rw [List.getElem_drop, List.getD_eq_getElem f 0 (by omega)]
    congr 1; omega
  rw [slice, hlast, List.take_append_getElem, List.take_of_length_le]
  rw [List.length_drop]; omega

/-- The CRC over a valid frame's bytes from its type to its crc byte is zero. -/
theorem crc8_drop_two_of_frameValid {f : Bytes} (h : frameValid f = true) : crc8 (f.drop 2) = 0x00 := by
  cases hd : frameDecode f with
  | error e => simp [frameValid, hd] at h
  | ok r =>
    obtain ⟨d, ext⟩ := r
    simp only [frameDecode, ite_error_eq_ok, ne_eq, not_not, Config.frameMinBytes] at hd
    obtain ⟨hmin, hlen, -, -, -, hcrc, -⟩ := hd
    rw [← slice_append_getD (by omega) hlen]
    exact (crc8_append_singleton_eq_zero_iff _ _).2 hcrc

/-- Settles O21: two valid frames have CRC zero from their type bytes on, so no one byte there is all that differs. -/
theorem frameBitFlipRejected : Obligations.FrameBitFlipRejected := by
  intro pre post b k hk hpre hvalid
  rw [← Bool.not_eq_true]
  intro hflip
  have hcrc := crc8_drop_two_of_frameValid hvalid
  have hcrc' := crc8_drop_two_of_frameValid hflip
  rw [List.drop_append_of_le_length hpre] at hcrc hcrc'
  exact xor_bit_ne b hk (crc8_append_cons_inj.1 (hcrc'.trans hcrc.symm))

end Sys2Proof.Machine

namespace Sys2Proof.Machine

/-! ## The frame codec, there and back -/

/-! ### The frame decoder's checks (R124) -/

/-- Four bytes or more are a sync byte, a length byte, the checked bytes with the type first, and a crc byte (R80). -/
theorem exists_frame_fields {f : Bytes} (h : 4 ≤ f.length) :
    ∃ (sync len type : Byte) (more : Bytes) (crc : Byte), f = [sync, len, type] ++ more ++ [crc] := by
  match f with
  | [] | [_] | [_, _] | [_, _, _] => simp at h
  | sync :: len :: type :: b :: rest =>
    obtain ⟨more, crc, hmore⟩ := (List.eq_nil_or_concat' (b :: rest)).resolve_left (List.cons_ne_nil b rest)
    exact ⟨sync, len, type, more, crc, by rw [hmore]; rfl⟩

theorem frameDecode_eShort {f : Bytes} (h : f.length < 4) : frameDecode f = .error .eShort := if_pos h

section
variable {sync len type crc : Byte} {more : Bytes}

theorem frameDecode_eLenMismatch (h : len.toNat + 2 ≠ ([sync, len, type] ++ more ++ [crc]).length) :
    frameDecode ([sync, len, type] ++ more ++ [crc]) = .error .eLenMismatch := by
  rw [frameDecode, if_neg (by simp)]
  exact if_pos h

/-- With the length that the frame says, the checked bytes are those between the length and the crc byte. R124's checks
of the sync byte, the length's upper bound, the type and the CRC are what is left. -/
theorem frameDecode_fields (h : len.toNat + 2 = ([sync, len, type] ++ more ++ [crc]).length) :
    frameDecode ([sync, len, type] ++ more ++ [crc]) =
      if sync ∉ Config.syncSet then .error .eSync
      else if 62 < len.toNat then .error .eLenRange
      else if 0x28 ≤ type.toNat ∧ len.toNat < 4 then .error .eExtShort
      else if crc8 (type :: more) ≠ crc then .error .eCrc
      else .ok (sync :: type :: more, isExt type) := by
  have hn : len.toNat = more.length + 2 := by simpa using h
  have hsync : ([sync, len, type] ++ more ++ [crc]).getD 0 0 = sync := rfl
  have hlen : ([sync, len, type] ++ more ++ [crc]).getD 1 0 = len := rfl
  have htype : ([sync, len, type] ++ more ++ [crc]).getD 2 0 = type := rfl
  have hslice : slice ([sync, len, type] ++ more ++ [crc]) 2 len.toNat = type :: more := by simp [slice, hn]
  have hcrc : ([sync, len, type] ++ more ++ [crc]).getD (len.toNat + 1) 0 = crc := by simp [hn]
  have hlow : ¬ len.toNat < 2 := by omega
  rw [frameDecode, if_neg (by simp)]
  simp only [hsync, hlen, htype, hslice, hcrc, ← h, ne_eq, not_true_eq_false, if_false, ← isSync_iff,
    Bool.not_eq_true, Bool.not_eq_true', Config.lenMin, Config.lenMax, hlow, false_or, Config.extLenMin,
    Bool.and_eq_true, isExt_iff, decide_eq_true_eq]

end

/-- What the decoder accepts: a frame whose length byte, sync byte, type and crc byte pass every check (R124). -/
theorem frameDecode_eq_ok {f d : Bytes} {ext : Bool} (h : frameDecode f = .ok (d, ext)) :
    ∃ (sync len type : Byte) (more : Bytes), f = [sync, len, type] ++ more ++ [crc8 (type :: more)] ∧
      d = sync :: type :: more ∧ ext = isExt type ∧ sync ∈ Config.syncSet ∧ len.toNat = d.length ∧ d.length ≤ 62 ∧
      (type.toNat < 0x28 ∨ 4 ≤ d.length) := by
  obtain hshort | hlong := Nat.lt_or_ge f.length 4
  · rw [frameDecode_eShort hshort] at h
    cases h
  obtain ⟨sync, len, type, more, crc, rfl⟩ := exists_frame_fields hlong
  by_cases hlen : len.toNat + 2 = ([sync, len, type] ++ more ++ [crc]).length
  · rw [frameDecode_fields hlen] at h
    simp only [ite_error_eq_ok, ne_eq, not_not, Except.ok.injEq, Prod.mk.injEq] at h
    obtain ⟨hsync, hmax, hext, rfl, rfl, rfl⟩ := h
    have hd : len.toNat = (sync :: type :: more).length := by simpa using hlen
    exact ⟨sync, len, type, more, rfl, rfl, rfl, hsync, hd, by omega, by omega⟩
  · rw [frameDecode_eLenMismatch hlen] at h
    cases h

/-- What the encoder accepts (R122), and the frame it makes (R80, R81). -/
theorem frameEncode_eq_ok {d f : Bytes} (h : frameEncode d = .ok f) :
    ∃ (sync type : Byte) (rest : Bytes), d = sync :: type :: rest ∧ sync ∈ Config.syncSet ∧ d.length ≤ 62 ∧
      (type.toNat < 0x28 ∨ 4 ≤ d.length) ∧
      f = [sync, BitVec.ofNat 8 d.length, type] ++ rest ++ [crc8 (type :: rest)] := by
  match d with
  | [] | [_] => cases h
  | sync :: type :: rest =>
    have hmodel := h
    simp only [frameEncode, ite_error_eq_ok, Bool.not_eq_true', Bool.not_eq_false, isSync_iff, Bool.and_eq_true,
      isExt_iff, decide_eq_true_eq] at hmodel
    obtain ⟨hsync, hext, hmax, -⟩ := hmodel
    have hx : type.toNat < 0x28 ∨ 4 ≤ (sync :: type :: rest).length := by omega
    rw [frameEncode_ok hsync hx (Nat.not_lt.1 hmax), Except.ok.injEq] at h
    exact ⟨sync, type, rest, rfl, hsync, Nat.not_lt.1 hmax, hx, h.symm⟩

/-- The decoder takes apart the frame that the encoder makes. -/
theorem frameDecode_of_frameEncode {d f : Bytes} (h : frameEncode d = .ok f) :
    frameDecode f = .ok (d, decide (0x28 ≤ (d.getD 1 0).toNat)) := by
  obtain ⟨sync, type, rest, rfl, hsync, hmax, hx, rfl⟩ := frameEncode_eq_ok h
  have hlen : (BitVec.ofNat 8 (sync :: type :: rest).length).toNat = (sync :: type :: rest).length := by
    rw [BitVec.toNat_ofNat, Nat.mod_eq_of_lt (by omega)]
  rw [frameDecode_fields (by rw [hlen]; simp), hlen, if_neg (not_not.2 hsync), if_neg (by omega), if_neg (by omega),
    if_neg (not_not.2 rfl)]
  rfl

/-- The encoder makes again the frame that the decoder took apart: the length and crc bytes are fixed by the others. -/
theorem frameEncode_of_frameDecode {f d : Bytes} {ext : Bool} (h : frameDecode f = .ok (d, ext)) :
    frameEncode d = .ok f := by
  obtain ⟨sync, len, type, more, rfl, rfl, -, hsync, hlen, hmax, hx⟩ := frameDecode_eq_ok h
  rw [frameEncode_ok hsync hx hmax, ← hlen, BitVec.ofNat_toNat, BitVec.setWidth_eq]

/-- Settles O20. -/
theorem frameRoundTrip : Obligations.FrameRoundTrip :=
  ⟨fun _ _ => frameDecode_of_frameEncode, fun _ _ _ => frameEncode_of_frameDecode⟩

/-! ### The decoder's answers (R128) -/

section
variable {s : State} {q : Port} (hq : s.ports[s.cur]? = some q)
include hq

theorem exec_frameDecode_eArg {arg : Byte} (h : arg ≠ 0x00) (din : Bytes) :
    exec (.frameDecode arg din) s = .next (s.errWith q .eArg) := by
  rw [exec, execFrameDecode, if_pos h]
  exact raise_eq hq .eArg

theorem exec_frameDecode_error {din : Bytes} {e : Status} (h : frameDecode din = .error e) :
    exec (.frameDecode 0x00 din) s = .next (s.errWith q e) := by
  rw [exec, execFrameDecode, if_neg (not_not.2 rfl), h]
  exact raise_eq hq e

theorem exec_frameDecode_ok {din d : Bytes} {ext : Bool} (h : frameDecode din = .ok (d, ext)) :
    exec (.frameDecode 0x00 din) s = .next (s.okWith q (if ext then 0x01 else 0x00) d) := by
  rw [exec, execFrameDecode, if_neg (not_not.2 rfl), h]
  exact respond_eq hq .ok _ d

end

/-- Settles O19, check by check. -/
theorem frameDecodeAnswers : Obligations.FrameDecodeAnswers := by
  intro s q arg din hq
  refine ⟨fun h => exec_frameDecode_eArg hq h din, fun h => exec_frameDecode_error hq (frameDecode_eShort h), ?_⟩
  rintro sync len type more crc rfl
  refine ⟨fun h => exec_frameDecode_error hq (frameDecode_eLenMismatch h), fun h => ?_⟩
  have hd := frameDecode_fields h
  refine ⟨fun hs => ?_, fun hs hlen => ?_, fun hs hlen => ⟨fun hx => ?_, fun hx => ⟨fun hcrc => ?_, fun hcrc => ?_⟩⟩⟩
  · rw [if_pos hs] at hd
    exact exec_frameDecode_error hq hd
  · rw [if_neg (not_not.2 hs), if_pos hlen] at hd
    exact exec_frameDecode_error hq hd
  · rw [if_neg (not_not.2 hs), if_neg (by omega), if_pos hx] at hd
    exact exec_frameDecode_error hq hd
  · rw [if_neg (not_not.2 hs), if_neg (by omega), if_neg (by omega), if_pos hcrc.symm] at hd
    exact exec_frameDecode_error hq hd
  · rw [if_neg (not_not.2 hs), if_neg (by omega), if_neg (by omega), if_neg (not_not.2 hcrc.symm)] at hd
    simpa only [isExt_iff] using exec_frameDecode_ok hq hd

/-! ## The scan, pass by pass (R151) -/

/-- Bytes that are no sync byte are skipped, whatever follows. -/
theorem dropWhile_noise_append {noise : Bytes} (h : ∀ x ∈ noise, x ∉ Config.syncSet) (b : Bytes) :
    (noise ++ b).dropWhile (fun x => !isSync x) = b.dropWhile (fun x => !isSync x) :=
  List.dropWhile_append_of_pos fun x hx => by rw [(isSync_eq_false_iff x).2 (h x hx)]; rfl

theorem dropWhile_sync_cons {sync : Byte} (h : sync ∈ Config.syncSet) (b : Bytes) :
    (sync :: b).dropWhile (fun x => !isSync x) = sync :: b :=
  List.dropWhile_cons_of_neg (by simp [(isSync_iff sync).2 h])

theorem parserScan_noise_append {noise : Bytes} (h : ∀ x ∈ noise, x ∉ Config.syncSet) (b : Bytes) :
    parserScan (noise ++ b) = parserScan b := by
  rw [parserScan_eq, parserScan_eq b, dropWhile_noise_append h]

theorem parserScan_noise {noise : Bytes} (h : ∀ x ∈ noise, x ∉ Config.syncSet) : parserScan noise = ⟨[], [], 0⟩ := by
  rw [← List.append_nil noise, parserScan_noise_append h]
  rfl

section
variable {sync : Byte} (hs : sync ∈ Config.syncSet)
include hs

theorem parserScan_sync : parserScan [sync] = ⟨[sync], [], 0⟩ := by
  rw [parserScan_eq, dropWhile_sync_cons hs]

theorem parserScan_badLength {len : Byte} (h : len.toNat < 2 ∨ 62 < len.toNat) (rest : Bytes) :
    parserScan (sync :: len :: rest) = parserScan (len :: rest) := by
  rw [parserScan_eq, dropWhile_sync_cons hs]
  exact if_pos h

theorem parserScan_incomplete {len : Byte} {rest : Bytes} (hmin : 2 ≤ len.toNat) (hmax : len.toNat ≤ 62)
    (h : rest.length < len.toNat) : parserScan (sync :: len :: rest) = ⟨sync :: len :: rest, [], 0⟩ := by
  rw [parserScan_eq, dropWhile_sync_cons hs]
  exact (if_neg (by simp only [Config.lenMin, Config.lenMax]; omega)).trans (if_pos h)

theorem parserScan_slice {len : Byte} {f : Bytes} (hmin : 2 ≤ len.toNat) (hmax : len.toNat ≤ 62)
    (h : f.length = len.toNat) (more : Bytes) :
    parserScan (sync :: len :: (f ++ more)) =
      if frameValid (sync :: len :: f) = true then
        ⟨(parserScan more).buf, sync :: len :: f ++ (parserScan more).out, (parserScan more).nf + 1⟩
      else parserScan more := by
  have hrange : ¬ (len.toNat < Config.lenMin ∨ Config.lenMax < len.toNat) := by
    simp only [Config.lenMin, Config.lenMax]; omega
  have hwhole : ¬ (f ++ more).length < len.toNat := by rw [List.length_append]; omega
  rw [parserScan_eq, dropWhile_sync_cons hs]
  dsimp only
  rw [if_neg hrange, if_neg hwhole, List.take_left' h, List.drop_left' h]

end

/-- Settles O24: noise is skipped first, and then each branch of a pass is an equation of its own. -/
theorem parserScanFollowsTheLoop : Obligations.ParserScanFollowsTheLoop := by
  refine ⟨fun b h => parserScan_noise h, fun noise sync h hs => ?_⟩
  simp only [parserScan_noise_append h]
  refine ⟨parserScan_sync hs, fun len rest =>
    ⟨fun hlen => parserScan_badLength hs hlen rest, fun ⟨hmin, hmax⟩ => ⟨parserScan_incomplete hs hmin hmax, ?_⟩⟩⟩
  rintro f more rfl hf
  exact parserScan_slice hs hmin hmax hf more

/-! ## What the scan gives out -/

/-- All that a scan can give: nothing when it stops, and one valid frame more for each slice that decodes. -/
theorem parserScan_induction {P : Parsed → Prop} (stop : ∀ b, P ⟨b, [], 0⟩)
    (frame : ∀ f r, frameValid f = true → P r → P ⟨r.buf, f ++ r.out, r.nf + 1⟩) (b : Bytes) : P (parserScan b) := by
  induction hn : b.length using Nat.strong_induction_on generalizing b with
  | _ n ih =>
    subst hn
    have hd := length_dropWhile_le' (fun x => !isSync x) b
    rw [parserScan_eq]
    match h : b.dropWhile (fun x => !isSync x) with
    | [] => exact stop []
    | [x] => exact stop [x]
    | x :: l :: rest =>
      simp only [h, List.length_cons] at hd
      have hskip : P (parserScan (l :: rest)) := ih _ (by simp only [List.length_cons]; omega) _ rfl
      have htake : P (parserScan (rest.drop l.toNat)) := ih _ (by simp only [List.length_drop]; omega) _ rfl
      dsimp only
      split
      · exact hskip
      · split
        · exact stop _
        · split
          · exact frame _ _ ‹_› htake
          · exact htake

/-- The output is valid frames, as many as are counted (R121, R157). -/
def OutputIsFrames (r : Parsed) : Prop :=
  ∃ fs : List Bytes, fs.flatten = r.out ∧ fs.length = r.nf ∧ ∀ f ∈ fs, frameValid f = true

theorem OutputIsFrames.stop (b : Bytes) : OutputIsFrames ⟨b, [], 0⟩ := ⟨[], rfl, rfl, by simp⟩

theorem OutputIsFrames.frame {f : Bytes} {r : Parsed} (hf : frameValid f = true) (hr : OutputIsFrames r) :
    OutputIsFrames ⟨r.buf, f ++ r.out, r.nf + 1⟩ := by
  obtain ⟨fs, hout, hnf, hvalid⟩ := hr
  exact ⟨f :: fs, by rw [List.flatten_cons, hout], by rw [List.length_cons, hnf], List.forall_mem_cons.2 ⟨hf, hvalid⟩⟩

/-- Settles O28. -/
theorem parserOutputIsValidFrames : Obligations.ParserOutputIsValidFrames := by
  intro buf chunk
  have hframes : OutputIsFrames (parserPush buf chunk) :=
    parserScan_induction OutputIsFrames.stop (fun _ _ => OutputIsFrames.frame) (buf ++ chunk)
  have hlen := parserScan_length_le (buf ++ chunk)
  rw [List.length_append] at hlen
  exact ⟨hframes, hlen⟩

end Sys2Proof.Machine

namespace Sys2Proof.Machine

/-! ## The stream parser, chunk by chunk -/

/-! ### The scan as an append -/

/-- The branches of R151's loop as an induction over what is scanned: a byte of noise, and each way a pass can go
on from a sync byte. -/
theorem scan_pass_induction {motive : Bytes → Prop} (nil : motive [])
    (noise : ∀ x b, x ∉ Config.syncSet → motive b → motive (x :: b))
    (lone : ∀ sync ∈ Config.syncSet, motive [sync])
    (badLength : ∀ sync ∈ Config.syncSet, ∀ (len : Byte) (rest : Bytes), len.toNat < 2 ∨ 62 < len.toNat →
      motive (len :: rest) → motive (sync :: len :: rest))
    (incomplete : ∀ sync ∈ Config.syncSet, ∀ (len : Byte) (rest : Bytes), 2 ≤ len.toNat → len.toNat ≤ 62 →
      rest.length < len.toNat → motive (sync :: len :: rest))
    (slice : ∀ sync ∈ Config.syncSet, ∀ (len : Byte) (f more : Bytes), 2 ≤ len.toNat → len.toNat ≤ 62 →
      f.length = len.toNat → motive more → motive (sync :: len :: (f ++ more)))
    (b : Bytes) : motive b := by
  induction hn : b.length using Nat.strong_induction_on generalizing b with
  | _ n ih =>
    subst hn
    match b with
    | [] => exact nil
    | x :: rest =>
      by_cases hx : x ∈ Config.syncSet
      · match rest with
        | [] => exact lone x hx
        | len :: rest =>
          by_cases hbad : len.toNat < 2 ∨ 62 < len.toNat
          · exact badLength x hx len rest hbad (ih _ (by simp) _ rfl)
          · obtain hshort | hwhole := Nat.lt_or_ge rest.length len.toNat
            · exact incomplete x hx len rest (by omega) (by omega) hshort
            · have hmore : motive (rest.drop len.toNat) := ih _ (by simp; omega) _ rfl
              have hf : (rest.take len.toNat).length = len.toNat := List.length_take_of_le hwhole
              have h := slice x hx len _ _ (by omega) (by omega) hf hmore
              rwa [List.take_append_drop] at h
      · exact noise x rest hx (ih _ (by simp) _ rfl)

/-- What two pushes one after the other give: the frames of both, and the buffer of the later one. -/
def Parsed.andThen (r r' : Parsed) : Parsed := ⟨r'.buf, r.out ++ r'.out, r.nf + r'.nf⟩

theorem Parsed.nothing_andThen (b : Bytes) (r : Parsed) : (Parsed.mk b [] 0).andThen r = r := by
  simp [Parsed.andThen]

theorem Parsed.frame_andThen (f : Bytes) (r r' : Parsed) :
    (Parsed.mk r.buf (f ++ r.out) (r.nf + 1)).andThen r' =
      ⟨(r.andThen r').buf, f ++ (r.andThen r').out, (r.andThen r').nf + 1⟩ := by
  simp [Parsed.andThen, Nat.add_right_comm]

theorem parserScan_nil : parserScan [] = ⟨[], [], 0⟩ := rfl

theorem parserScan_cons_noise {x : Byte} (h : x ∉ Config.syncSet) (b : Bytes) : parserScan (x :: b) = parserScan b :=
  parserScan_noise_append (noise := [x]) (List.forall_mem_singleton.2 h) b

/-- Where a scan keeps all its bytes, the longer scan goes on from them. -/
theorem parserScan_append_of_kept {b : Bytes} (h : parserScan b = ⟨b, [], 0⟩) (c : Bytes) :
    parserScan (b ++ c) = (parserScan b).andThen (parserScan ((parserScan b).buf ++ c)) := by
  rw [h, Parsed.nothing_andThen]

/-- Every decision of the loop depends on bytes that are already there, and every exit leaves the buffer where the
longer input goes on (R154). -/
theorem parserScan_append (b c : Bytes) :
    parserScan (b ++ c) = (parserScan b).andThen (parserScan ((parserScan b).buf ++ c)) := by
  induction b using scan_pass_induction with
  | nil => exact parserScan_append_of_kept parserScan_nil c
  | noise x b hx ih => rw [List.cons_append, parserScan_cons_noise hx, parserScan_cons_noise hx, ih]
  | lone sync hs => exact parserScan_append_of_kept (parserScan_sync hs) c
  | badLength sync hs len rest hlen ih =>
    rw [List.cons_append, List.cons_append, parserScan_badLength hs hlen, parserScan_badLength hs hlen,
      ← List.cons_append, ih]
  | incomplete sync hs len rest hmin hmax hshort =>
    exact parserScan_append_of_kept (parserScan_incomplete hs hmin hmax hshort) c
  | slice sync hs len f more hmin hmax hf ih =>
    rw [List.cons_append, List.cons_append, List.append_assoc, parserScan_slice hs hmin hmax hf,
      parserScan_slice hs hmin hmax hf, ih]
    split
    · exact (Parsed.frame_andThen ..).symm
    · rfl

/-- Settles O26: the push of both chunks is one scan, cut where the first chunk ends. -/
theorem parserChunkingIrrelevant : Obligations.ParserChunkingIrrelevant := by
  intro buf a c _
  have h := parserScan_append (buf ++ a) c
  rwa [List.append_assoc] at h

/-! ### Byte by byte -/

/-- A buffer that meets R153 waits for bytes: a scan of it alone changes nothing. -/
theorem parserScan_of_bufferOk {b : Bytes} (h : bufferOk b = true) : parserScan b = ⟨b, [], 0⟩ := by
  match b with
  | [] => exact parserScan_nil
  | [x] => exact parserScan_sync ((isSync_iff x).1 h)
  | x :: l :: rest =>
    simp only [bufferOk, Bool.and_eq_true, decide_eq_true_eq] at h
    obtain ⟨⟨⟨hx, hmin⟩, hmax⟩, hrest⟩ := h
    exact parserScan_incomplete ((isSync_iff x).1 hx) hmin hmax hrest

/-- Settles O27, by induction on the chunk: its first byte, and then the others on the buffer that byte leaves. -/
theorem parserStreamingEquivalent : Obligations.ParserStreamingEquivalent := by
  intro buf chunk hbuf
  induction chunk generalizing buf with
  | nil => rw [parserFeed, parserPush_nil, parserScan_of_bufferOk hbuf]
  | cons x chunk ih =>
    have hnext : bufferOk (parserPush buf [x]).buf = true := bufferOk_parserScan (buf ++ [x])
    rw [parserFeed, ih _ hnext]
    exact (parserChunkingIrrelevant buf [x] chunk hbuf).symm

/-! ### Slices and frames -/

theorem frameValid_of_error {f : Bytes} {e : Status} (h : frameDecode f = .error e) : frameValid f = false := by
  rw [frameValid, h]

/-- A slice is cut to its length byte and starts with a sync byte, so only its type and its CRC are still to be checked
(R124, R152). -/
theorem frameDecode_slice_error {sync len : Byte} {f : Bytes} {e : Status} (hs : sync ∈ Config.syncSet)
    (hmin : 2 ≤ len.toNat) (hmax : len.toNat ≤ 62) (hf : f.length = len.toNat)
    (h : frameDecode (sync :: len :: f) = .error e) : e = .eExtShort ∨ e = .eCrc := by
  obtain ⟨sync', len', type, more, crc, heq⟩ := exists_frame_fields (f := sync :: len :: f) (by simp; omega)
  obtain ⟨rfl, rfl, rfl⟩ : sync = sync' ∧ len = len' ∧ f = type :: (more ++ [crc]) := by simpa using heq
  have hfields : len.toNat + 2 = ([sync, len, type] ++ more ++ [crc]).length := by simp [← hf]
  rw [heq, frameDecode_fields hfields, if_neg (not_not.2 hs), if_neg (Nat.not_lt.2 hmax)] at h
  split at h
  · cases h
    exact .inl rfl
  · split at h
    · cases h
      exact .inr rfl
    · cases h

/-- Settles O29: the codes by the decoder's checks, and the drop by the slicing pass of the loop. -/
theorem parserSliceFailures : Obligations.ParserSliceFailures := by
  intro sync len f e hs hmin hmax hf h
  refine ⟨frameDecode_slice_error hs hmin hmax hf h, fun more => ?_⟩
  rw [parserScan_slice hs hmin hmax hf, frameValid_of_error h]
  exact if_neg Bool.false_ne_true

/-- A valid frame is a sync byte, a length byte in its range, and as many bytes as that says (R121). -/
theorem exists_slice_of_frameValid {f : Bytes} (h : frameValid f = true) :
    ∃ (sync len : Byte) (rest : Bytes), f = sync :: len :: rest ∧ sync ∈ Config.syncSet ∧ 2 ≤ len.toNat ∧
      len.toNat ≤ 62 ∧ rest.length = len.toNat := by
  cases hd : frameDecode f with
  | error e => simp [frameValid_of_error hd] at h
  | ok r =>
    obtain ⟨sync, len, type, more, rfl, hdata, -, hs, hlen, hmax, -⟩ := frameDecode_eq_ok hd
    have hn : len.toNat = more.length + 2 := by rw [hlen, hdata]; rfl
    exact ⟨sync, len, _, rfl, hs, by omega, by omega, by simp [hn]⟩

/-- A scan of a valid frame gives it out and keeps nothing. -/
theorem parserScan_of_frameValid {f : Bytes} (h : frameValid f = true) : parserScan f = ⟨[], f, 1⟩ := by
  obtain ⟨sync, len, rest, rfl, hs, hmin, hmax, hrest⟩ := exists_slice_of_frameValid h
  have hscan := parserScan_slice hs hmin hmax hrest []
  rw [if_pos h, List.append_nil] at hscan
  simpa [parserScan_nil] using hscan

/-- A valid frame that lacks its last bytes meets R153. -/
theorem bufferOk_of_frameValid_append {b c : Bytes} (h : frameValid (b ++ c) = true) (hc : c ≠ []) :
    bufferOk b = true := by
  obtain ⟨sync, len, rest, heq, hs, hmin, hmax, hrest⟩ := exists_slice_of_frameValid h
  match b with
  | [] => rfl
  | [x] =>
    obtain ⟨rfl, -⟩ : x = sync ∧ c = len :: rest := by simpa using heq
    exact (isSync_iff x).2 hs
  | x :: l :: b =>
    obtain ⟨rfl, rfl, rfl⟩ : x = sync ∧ l = len ∧ b ++ c = rest := by simpa using heq
    have hb : b.length < l.toNat := by
      have hpos := List.length_pos_iff.2 hc
      rw [List.length_append] at hrest
      omega
    simp only [bufferOk, (isSync_iff x).2 hs, Bool.true_and, Bool.and_eq_true, decide_eq_true_eq]
    exact ⟨⟨hmin, hmax⟩, hb⟩

/-- Settles O30: until its last byte a frame is a buffer that waits for more. -/
theorem parserPartialDelivery : Obligations.ParserPartialDelivery := fun _ _ _ h hc =>
  ⟨parserScan_of_bufferOk (bufferOk_of_frameValid_append h hc), parserScan_of_frameValid h⟩

/-- Settles O31: the scan skips the noise and finds the frame. -/
theorem parserResynchronizes : Obligations.ParserResynchronizes := fun _ _ hnoise h =>
  (parserScan_noise_append hnoise _).trans (parserScan_of_frameValid h)

/-! ### The AUX byte of a push (R156) -/

theorem noSync_iff (buf chunk : Bytes) :
    noSync buf chunk = true ↔ buf ++ chunk ≠ [] ∧ ∀ x ∈ buf ++ chunk, x ∉ Config.syncSet := by
  simp only [noSync, Bool.and_eq_true, Bool.not_eq_true', List.isEmpty_eq_false_iff, List.any_eq_false, isSync_iff]

theorem dropped_iff (buf chunk out buf' : Bytes) :
    dropped buf chunk out buf' = true ↔ out.length + buf'.length < buf.length + chunk.length := decide_eq_true_iff

/-- Two flags in bits 7 and 6 of a byte and a number below 64 under them, each read back. -/
theorem flagByte_fields (a b : Bool) {n : Nat} (hn : n < 64) :
    let v : Byte := BitVec.ofNat 8 (a.toNat * 128 + b.toNat * 64 + n)
    v.getLsbD 7 = a ∧ v.getLsbD 6 = b ∧ v.toNat % 64 = n := by
  have hbit (k : Nat) (hk : k < 8) (m : Nat) : (BitVec.ofNat 8 m).getLsbD k = decide (m / 2 ^ k % 2 = 1) := by
    rw [BitVec.getLsbD_ofNat, Nat.testBit_eq_decide_div_mod_eq, decide_eq_true hk, Bool.true_and]
  have ha := a.toNat_lt
  have hb := b.toNat_lt
  have h7 : (a.toNat * 128 + b.toNat * 64 + n) / 2 ^ 7 % 2 = a.toNat := by omega
  have h6 : (a.toNat * 128 + b.toNat * 64 + n) / 2 ^ 6 % 2 = b.toNat := by omega
  refine ⟨by rw [hbit 7 (by omega), h7]; cases a <;> rfl, by rw [hbit 6 (by omega), h6]; cases b <;> rfl, ?_⟩
  rw [BitVec.toNat_ofNat]
  omega

/-- Settles O32. -/
theorem pushAuxFields : Obligations.PushAuxFields := by
  intro buf chunk r aux
  obtain ⟨hnosync, hdropped, hcount⟩ :=
    flagByte_fields (noSync buf chunk) (dropped buf chunk r.out r.buf) (n := min r.nf 63) (by omega)
  exact ⟨(Bool.eq_iff_iff.1 hnosync).trans (noSync_iff ..),
    (Bool.eq_iff_iff.1 hdropped).trans (dropped_iff ..), hcount⟩

/-! ### `PARSER_RESET` and `PARSER_LEVEL` (R160, R161) -/

/-- Where ARG names an instance, only the operand bytes are left to be at fault. -/
theorem din_ne_nil_of_parserArg {arg : Byte} {din : Bytes} {i : ParserId} (hi : parserArg arg = some i)
    (h : 2 ≤ arg.toNat ∨ din ≠ []) : din ≠ [] :=
  h.resolve_left fun h2 => by simp [parserArg_eq_none h2] at hi

section
variable {s : State} {q : Port} (hq : s.ports[s.cur]? = some q)
include hq

theorem exec_parserReset_eArg {arg : Byte} {din : Bytes} (h : 2 ≤ arg.toNat ∨ din ≠ []) :
    exec (.parserReset arg din) s = .next (s.errWith q .eArg) := by
  rw [exec, execParserReset]
  cases hi : parserArg arg with
  | none => exact raise_eq hq .eArg
  | some i =>
    simpa [din_ne_nil_of_parserArg hi h] using raise_eq hq .eArg

theorem exec_parserLevel_eArg {arg : Byte} {din : Bytes} (h : 2 ≤ arg.toNat ∨ din ≠ []) :
    exec (.parserLevel arg din) s = .next (s.errWith q .eArg) := by
  rw [exec, execParserLevel]
  cases hi : parserArg arg with
  | none => exact raise_eq hq .eArg
  | some i =>
    simpa [din_ne_nil_of_parserArg hi h] using raise_eq hq .eArg

theorem exec_parserReset_eq {arg : Byte} {i : ParserId} (hi : parserArg arg = some i) :
    exec (.parserReset arg []) s = .next ((s.setPbuf i []).okWith q 0x00 []) := by
  simp only [exec, execParserReset, hi]
  exact respond_setPbuf hq .ok 0x00 [] i []

/-- AUX can count the bytes of a buffer that meets R153. -/
theorem exec_parserLevel_eq {arg : Byte} {i : ParserId} (hi : parserArg arg = some i)
    (hbuf : bufferOk (s.pbuf i) = true) :
    ∃ n : Byte, n.toNat = (s.pbuf i).length ∧ exec (.parserLevel arg []) s = .next (s.okWith q n []) := by
  have hlen := length_le_of_bufferOk hbuf
  refine ⟨BitVec.ofNat 8 (s.pbuf i).length, ?_, ?_⟩
  · rw [BitVec.toNat_ofNat, Nat.mod_eq_of_lt (by omega)]
  · simp only [exec, execParserLevel, hi]
    exact respond_eq hq .ok _ []

end

/-- Settles O23: ARG names the instance. -/
theorem parserResetAndLevelAnswer : Obligations.ParserResetAndLevelAnswer := by
  intro s q arg din hq
  exact ⟨fun h => ⟨exec_parserReset_eArg hq h, exec_parserLevel_eArg hq h⟩,
    exec_parserReset_eq hq (i := .p0) rfl, exec_parserReset_eq hq (i := .p1) rfl,
    exec_parserLevel_eq hq (i := .p0) rfl, exec_parserLevel_eq hq (i := .p1) rfl⟩

end Sys2Proof.Machine

namespace Sys2Proof.Machine

/-! ## The envelope codec, there and back -/

/-! ### The envelope decoder's checks (R182) -/

/-- Eleven bytes or more are a type byte, eight timestamp bytes, the two bytes of a length, and a payload (R86). -/
theorem exists_envelope_fields {e : Bytes} (h : 11 ≤ e.length) :
    ∃ (t hi lo : Byte) (ts payload : Bytes), e = [t] ++ ts ++ [hi, lo] ++ payload ∧ ts.length = 8 := by
  match e with
  | t :: rest =>
    have hrest : 10 ≤ rest.length := Nat.le_of_succ_le_succ h
    exact ⟨t, rest[8], rest[9], rest.take 8, rest.drop 10, by simp, List.length_take_of_le (by omega)⟩

theorem envDecode_eShort {e : Bytes} (h : e.length < 11) : envDecode e = .error .eShort := if_pos h

section
variable {t hi lo : Byte} {ts payload : Bytes}

/-- The fields of an envelope are read back from their places (R86). R182's checks of the length, the packet type and
the length's upper bound are what is left. -/
theorem envDecode_fields (hts : ts.length = 8) :
    envDecode ([t] ++ ts ++ [hi, lo] ++ payload) =
      if hi.toNat * 256 + lo.toNat ≠ payload.length then .error .eLenMismatch
      else if t ∉ Config.ptypes then .error .ePtype
      else if 65523 < payload.length then .error .eTooLong
      else .ok ⟨t, ts, payload⟩ := by
  have hlen : ([t] ++ ts ++ [hi, lo] ++ payload).length = payload.length + 11 := by simp [hts]; omega
  have htype : ([t] ++ ts ++ [hi, lo] ++ payload).getD 0 0 = t := rfl
  have hstamp : slice ([t] ++ ts ++ [hi, lo] ++ payload) 1 8 = ts := by simp [slice, hts]
  have hcount : slice ([t] ++ ts ++ [hi, lo] ++ payload) 9 10 = [hi, lo] := by simp [slice, hts]
  have hdata : ([t] ++ ts ++ [hi, lo] ++ payload).drop 11 = payload := List.drop_left' (by simp [hts])
  simp only [envDecode, htype, hstamp, hcount, hdata, be_pair, hlen, Config.envHdrLen, Config.envPayloadMax,
    Nat.add_sub_cancel, Bool.not_eq_true', isPtype_eq_false_iff]
  rw [if_neg (by omega)]
  split
  · rfl
  · rename_i hn
    rw [not_not.1 hn]

end

/-- What the decoder accepts: an envelope whose length bytes count its payload, with a packet type and a payload that
pass their checks (R182). -/
theorem envDecode_eq_ok {e : Bytes} {v : Envelope} (h : envDecode e = .ok v) :
    ∃ hi lo : Byte, e = [v.ptype] ++ v.ts ++ [hi, lo] ++ v.payload ∧ v.ptype ∈ Config.ptypes ∧
      hi.toNat * 256 + lo.toNat = v.payload.length ∧ v.payload.length ≤ 65523 := by
  obtain hshort | hlong := Nat.lt_or_ge e.length 11
  · rw [envDecode_eShort hshort] at h
    cases h
  obtain ⟨t, hi, lo, ts, payload, rfl, hts⟩ := exists_envelope_fields hlong
  rw [envDecode_fields hts] at h
  simp only [ite_error_eq_ok, ne_eq, not_not, Except.ok.injEq] at h
  obtain ⟨hn, ht, hmax, rfl⟩ := h
  exact ⟨hi, lo, rfl, ht, hn, Nat.not_lt.1 hmax⟩

/-- The decoder takes apart the envelope that the encoder makes. -/
theorem envDecode_of_parts {t : Byte} {ts payload : Bytes} (ht : t ∈ Config.ptypes) (hts : ts.length = 8)
    (hmax : payload.length ≤ 65523) :
    ∃ e, envEncode t ts payload = .ok e ∧ envDecode e = .ok ⟨t, ts, payload⟩ := by
  obtain ⟨hi, lo, hn, hbytes⟩ := exists_u16be (n := payload.length) (by omega)
  refine ⟨[t] ++ ts ++ [hi, lo] ++ payload, by rw [envEncode_ok ht hmax, hbytes]; rfl, ?_⟩
  rw [envDecode_fields hts, if_neg (not_not.2 hn), if_neg (not_not.2 ht), if_neg (Nat.not_lt.2 hmax)]

/-- The encoder makes again the envelope that the decoder took apart: the length bytes are fixed by the payload. -/
theorem envEncode_of_envDecode {e : Bytes} {v : Envelope} (h : envDecode e = .ok v) :
    envEncode v.ptype v.ts v.payload = .ok e := by
  obtain ⟨hi, lo, he, ht, hn, hmax⟩ := envDecode_eq_ok h
  have hbytes : u16be (BitVec.ofNat 16 v.payload.length) = [hi, lo] := by
    rw [← hn, ← append_toNat, BitVec.ofNat_toNat, BitVec.setWidth_eq, u16be_append]
  rw [envEncode_ok ht hmax, hbytes, he]
  rfl

/-- Settles O36. -/
theorem envelopeRoundTrip : Obligations.EnvelopeRoundTrip :=
  ⟨fun _ _ _ => envDecode_of_parts, fun _ _ => envEncode_of_envDecode⟩

/-! ### The decoder's answers (R183) -/

section
variable {s : State} {q : Port} (hq : s.ports[s.cur]? = some q)
include hq

theorem exec_envDecode_eArg {arg : Byte} (h : arg ≠ 0x00) (din : Bytes) :
    exec (.envDecode arg din) s = .next (s.errWith q .eArg) := by
  rw [exec, execEnvDecode, if_pos h]
  exact raise_eq hq .eArg

theorem exec_envDecode_error {din : Bytes} {e : Status} (h : envDecode din = .error e) :
    exec (.envDecode 0x00 din) s = .next (s.errWith q e) := by
  rw [exec, execEnvDecode, if_neg (not_not.2 rfl), h]
  exact raise_eq hq e

theorem exec_envDecode_ok {din : Bytes} {v : Envelope} (h : envDecode din = .ok v) :
    exec (.envDecode 0x00 din) s = .next (s.okWith q v.ptype (v.ts ++ v.payload)) := by
  rw [exec, execEnvDecode, if_neg (not_not.2 rfl), h]
  exact respond_eq hq .ok _ _

end

/-- Settles O35, check by check. -/
theorem envDecodeAnswers : Obligations.EnvDecodeAnswers := by
  intro s q arg din hq
  refine ⟨fun h => exec_envDecode_eArg hq h din, fun h => exec_envDecode_error hq (envDecode_eShort h), ?_⟩
  rintro t hi lo ts payload rfl hts
  have hd := envDecode_fields (t := t) (hi := hi) (lo := lo) (payload := payload) hts
  refine ⟨fun hn => ?_, fun hn => ⟨fun ht => ?_, fun ht hmax => ?_, fun ht hmax => ?_⟩⟩
  · rw [if_pos hn] at hd
    exact exec_envDecode_error hq hd
  · rw [if_neg (not_not.2 hn), if_pos ht] at hd
    exact exec_envDecode_error hq hd
  · rw [if_neg (not_not.2 hn), if_neg (not_not.2 ht), if_pos hmax] at hd
    exact exec_envDecode_error hq hd
  · rw [if_neg (not_not.2 hn), if_neg (not_not.2 ht), if_neg (Nat.not_lt.2 hmax)] at hd
    exact exec_envDecode_ok hq hd

end Sys2Proof.Machine

namespace Sys2Proof.Machine

/-! ## The bytes on the wire -/

/-- The bytes of `l` follow one another without overlap, and none ends after `e` (R208, R209). -/
def BytesOk (l : List WireByte) (e : Rat) : Prop :=
  l.Pairwise (fun a b => a.stop ≤ b.start) ∧ ∀ b ∈ l, b.start ≤ b.stop ∧ b.stop ≤ e

theorem wireOk_iff (s : State) : WireOk s ↔ BytesOk s.wire s.wireUntil := Iff.rfl

theorem BytesOk.mono {l : List WireByte} {e e' : Rat} (h : BytesOk l e) (he : e ≤ e') : BytesOk l e' := by
  obtain ⟨hord, hall⟩ := h
  exact ⟨hord, fun b hb => (hall b hb).imp_right he.trans'⟩

/-- Bytes that start where the earlier ones have ended come after them. -/
theorem BytesOk.append {l l' : List WireByte} {t e : Rat} (h : BytesOk l t) (h' : BytesOk l' e)
    (hstart : ∀ b ∈ l', t ≤ b.start) (he : t ≤ e) : BytesOk (l ++ l') e := by
  obtain ⟨hord, hall⟩ := h.mono he
  obtain ⟨hord', hall'⟩ := h'
  obtain ⟨-, hend⟩ := h
  refine ⟨List.pairwise_append.2 ⟨hord, hord', fun a ha b hb => (hend a ha).2.trans (hstart b hb)⟩, ?_⟩
  exact List.forall_mem_append.2 ⟨hall, hall'⟩

/-! ### The bytes of one send (R208, R210) -/

section
variable (mask : Byte) {tb : Rat}

theorem emission_length (tb t : Rat) (d : Bytes) : (emission mask tb t d).length = d.length := by
  induction d generalizing t with
  | nil => rfl
  | cons b bs ih => simp [ih]

/-- Byte `j` starts `j` byte times after the first. -/
theorem emission_getElem? (tb t : Rat) {d : Bytes} {j : Nat} {b : Byte} (h : d[j]? = some b) :
    (emission mask tb t d)[j]? = some ⟨b ^^^ mask, t + j * tb, t + (j + 1) * tb, false⟩ := by
  induction d generalizing t j with
  | nil => simp at h
  | cons c cs ih =>
    cases j with
    | zero =>
      obtain rfl : c = b := by simpa using h
      simp
    | succ j =>
      have hstart : t + tb + j * tb = t + (j + 1 : Nat) * tb := by push_cast; ring
      have hstop : t + tb + (j + 1) * tb = t + ((j + 1 : Nat) + 1) * tb := by push_cast; ring
      rw [emission_cons, List.getElem?_cons_succ, ih (t + tb) (by simpa using h), hstart, hstop]

theorem le_start_of_mem_emission (htb : 0 ≤ tb) {t : Rat} {d : Bytes} {b : WireByte}
    (hb : b ∈ emission mask tb t d) : t ≤ b.start := by
  induction d generalizing t with
  | nil => simp at hb
  | cons c cs ih =>
    obtain rfl | hb := List.mem_cons.1 (emission_cons mask tb t c cs ▸ hb)
    · exact le_rfl
    · exact (le_add_of_nonneg_right htb).trans (ih hb)

/-- The bytes of a send take one byte time each. -/
theorem bytesOk_emission (htb : 0 ≤ tb) (t : Rat) (d : Bytes) :
    BytesOk (emission mask tb t d) (t + d.length * tb) := by
  induction d generalizing t with
  | nil => exact ⟨.nil, nofun⟩
  | cons b bs ih =>
    have hfirst : BytesOk [⟨b ^^^ mask, t, t + tb, false⟩] (t + tb) :=
      ⟨List.pairwise_singleton _ _, by simp [htb]⟩
    have hend : t + tb + bs.length * tb = t + (b :: bs).length * tb := by
      rw [List.length_cons]; push_cast; ring
    have hle : t + tb ≤ t + tb + bs.length * tb := le_add_of_nonneg_right (by positivity)
    exact hend ▸ hfirst.append (ih (t + tb)) (fun c => le_start_of_mem_emission mask htb) hle

end

/-- Settles O38, byte by byte. -/
theorem emissionTimesAndValues : Obligations.EmissionTimesAndValues := fun mask tb t0 d =>
  ⟨emission_length mask tb t0 d, fun _ _ => emission_getElem? mask tb t0⟩

/-! ### The wire when RST is asserted (R300, R312) -/

/-- What is on the wire after RST at `t`: the bytes that had ended, and the one being sent, cut. -/
theorem mem_cutWire {t : Rat} {l : List WireByte} {b : WireByte} :
    b ∈ cutWire t l ↔
      (b ∈ l ∧ b.stop ≤ t) ∨ ∃ a ∈ l, a.start < t ∧ t < a.stop ∧ b = { a with stop := t, cut := true } := by
  induction l with
  | nil => simp [cutWire]
  | cons c cs ih =>
    by_cases hstop : c.stop ≤ t
    · simp only [cutWire, if_pos hstop, List.mem_cons, ih]; grind
    · by_cases hstart : c.start < t
      · simp only [cutWire, if_neg hstop, if_pos hstart, List.mem_cons, ih]; grind
      · simp only [cutWire, if_neg hstop, if_neg hstart, List.mem_cons, ih]; grind

theorem stop_le_of_mem_cutWire {t : Rat} {l : List WireByte} {b : WireByte} (hb : b ∈ cutWire t l) : b.stop ≤ t := by
  obtain ⟨-, h⟩ | ⟨a, -, -, -, rfl⟩ := mem_cutWire.1 hb
  · exact h
  · exact le_rfl

/-- No byte starts later for being cut. -/
theorem exists_start_of_mem_cutWire {t : Rat} {l : List WireByte} {b : WireByte} (hb : b ∈ cutWire t l) :
    ∃ a ∈ l, b.start = a.start ∧ (a.stop ≤ t ∨ a.start < t) := by
  obtain ⟨hb, h⟩ | ⟨a, ha, h, -, rfl⟩ := mem_cutWire.1 hb
  · exact ⟨b, hb, rfl, .inl h⟩
  · exact ⟨a, ha, rfl, .inr h⟩

/-- RST leaves the bytes in order: after the one that is cut there is none. -/
theorem BytesOk.cutWire {l : List WireByte} {e : Rat} (h : BytesOk l e) (t : Rat) : BytesOk (cutWire t l) t := by
  obtain ⟨hord, hall⟩ := h
  refine ⟨?_, fun b hb => ⟨?_, stop_le_of_mem_cutWire hb⟩⟩
  · induction l with
    | nil => exact .nil
    | cons c cs ih =>
      obtain ⟨hc, hcs⟩ := List.pairwise_cons.1 hord
      have ih := ih hcs fun b hb => hall b (List.mem_cons_of_mem c hb)
      have hlater {b : WireByte} (hb : b ∈ Machine.cutWire t cs) : c.stop ≤ b.start ∧ c.stop ≤ t := by
        obtain ⟨a, ha, hstart, hle⟩ := exists_start_of_mem_cutWire hb
        have hca := hc a ha
        obtain ⟨haa, -⟩ := hall a (List.mem_cons_of_mem c ha)
        exact ⟨hstart ▸ hca, hle.elim (hca.trans haa).trans fun h => hca.trans h.le⟩
      rw [Machine.cutWire]
      split
      · exact List.pairwise_cons.2 ⟨fun b hb => (hlater hb).1, ih⟩
      · split
        · exact List.pairwise_cons.2 ⟨fun b hb => absurd (hlater hb).2 ‹_›, ih⟩
        · exact ih
  · obtain ⟨hb, -⟩ | ⟨a, -, h, -, rfl⟩ := mem_cutWire.1 hb
    · exact (hall b hb).1
    · exact h.le

/-! ### The agents, by what they do to the line -/

/-- `ArbiterStep P s e t`: what the step `e` of an agent, which leads from `s` to `t`, is to the arbiter and its outputs. -/
inductive ArbiterStep (P : Config.Params) (s : State) : Event → State → Prop where
  | still {e : Event} {t : State} (k : SameArbiter s t) (hrelease : e ≠ .rstRelease) : ArbiterStep P s e t
  | grant (p : Nat) : ArbiterStep P s (.grant p) (s.grant p)
  | phaseEnd : ArbiterStep P s .phaseEnd (s.phaseEnd P)
  | rstAssert : ArbiterStep P s .rstAssert s.rstAssert
  | rstRelease : ArbiterStep P s .rstRelease (s.rstRelease P)

theorem agentStep_arbiterStep {P : Config.Params} {e : Event} {s t : State} (h : agentStep P e s = .next t) :
    ArbiterStep P s e t := by
  cases e with
  | grant p => cases h; exact .grant p
  | phaseEnd => cases h; exact .phaseEnd
  | rstAssert => cases h; exact .rstAssert
  | rstRelease => cases h; exact .rstRelease
  | host p bs => exact .still (agentStep_sameArbiter h nofun nofun nofun nofun) nofun
  | port p => exact .still (agentStep_sameArbiter h nofun nofun nofun nofun) nofun
  | lineStart => exact .still (agentStep_sameArbiter h nofun nofun nofun nofun) nofun
  | lineStop v framing drawn => exact .still (agentStep_sameArbiter h nofun nofun nofun nofun) nofun
  | clock d => exact .still (agentStep_sameArbiter h nofun nofun nofun nofun) nofun

/-! ### The wire invariant, agent by agent -/

/-- Outside the data phase, and under RST, the wire is spoken for until now. -/
theorem wireUntil_eq_now {s : State} (h : s.phase ≠ .txData ∨ s.rst = true) : s.wireUntil = s.now := by
  refine if_neg fun ⟨hp, hr⟩ => ?_
  obtain h | h := h
  · exact h hp
  · simp [hr] at h

theorem wireUntil_txData {s : State} (hp : s.phase = .txData) (hr : s.rst = false) : s.wireUntil = s.deadline :=
  if_pos ⟨hp, hr⟩

section
variable {s t : State}

/-- No new byte, and the wire spoken for no shorter. -/
theorem WireOk.of_same (hs : WireOk s) (hwire : t.wire = s.wire) (huntil : s.wireUntil ≤ t.wireUntil) : WireOk t := by
  rw [wireOk_iff, hwire]
  exact BytesOk.mono hs huntil

/-- Outside the data phase every byte on the wire has ended. -/
theorem WireOk.ended (hs : WireOk s) (h : s.phase ≠ .txData ∨ s.rst = true) : BytesOk s.wire s.now :=
  wireUntil_eq_now h ▸ hs

/-- The agents that leave the arbiter alone: time has not gone back. -/
theorem WireOk.of_sameArbiter (hs : WireOk s) (k : SameArbiter s t) (hnow : s.now ≤ t.now) : WireOk t := by
  refine hs.of_same k.wire ?_
  simp only [State.wireUntil, k.phase, k.rst, k.deadline]
  split
  · exact le_rfl
  · exact hnow

/-- Nothing is sent at a grant, which is made on an idle line. -/
theorem WireOk.grant (hs : WireOk s) (p : Nat) : WireOk (s.grant p) := by
  obtain h | ⟨q, r, -, hi, -, -, h⟩ := grant_cases s p <;> rw [h]
  · exact hs
  · have hidle : s.wireUntil = s.now := wireUntil_eq_now (.inl (by simp [hi]))
    cases r with
    | send d =>
      have hgranted : (s.grantSend p d).wireUntil = s.now := wireUntil_eq_now (.inl nofun)
      exact hs.of_same rfl (hidle.trans hgranted.symm).le
    | recv m => exact hs.of_same rfl le_rfl
    | cfgw reg v => cases reg <;> exact hs.of_same rfl le_rfl

/-- The bytes of a send begin when its settle ends, and take the data phase (R207, R208). -/
theorem WireOk.endTxSettle (hs : WireOk s) (hp : s.phase = .txSettle) (hr : s.rst = false) (P : Config.Params) :
    WireOk (s.endTxSettle P) := by
  have hold : BytesOk s.wire s.now := hs.ended (.inl (by simp [hp]))
  have htb := tByte_nonneg P s.baud
  rw [wireOk_iff, wireUntil_txData (s := s.endTxSettle P) rfl hr]
  exact hold.append (bytesOk_emission s.txmask htb s.now s.txq) (fun b => le_start_of_mem_emission s.txmask htb)
    (le_add_of_nonneg_right (tWire_nonneg P s.baud s.txq.length))

/-- The data phase ends no earlier than its bytes (R211). -/
theorem WireOk.endTxData (hs : WireOk s) (hp : s.phase = .txData) (hr : s.rst = false) (hd : s.deadline ≤ s.now) :
    WireOk s.endTxData := by
  have hended : s.endTxData.wireUntil = s.now := wireUntil_eq_now (.inl nofun)
  exact hs.of_same rfl (by rwa [wireUntil_txData hp hr, hended])

theorem WireOk.endRxSettle (hs : WireOk s) (hp : s.phase = .rxSettle) : WireOk s.endRxSettle := by
  refine hs.of_same (by simp) ?_
  rw [wireUntil_eq_now (.inl (by simp [hp])), wireUntil_eq_now (.inl (by simp)), State.endRxSettle_now]

theorem WireOk.phaseEnd (hs : WireOk s) (P : Config.Params) : WireOk (s.phaseEnd P) := by
  obtain h | ⟨hr, hd, ⟨hp, h⟩ | ⟨hp, h⟩ | ⟨hp, h⟩⟩ := phaseEnd_cases P s <;> rw [h]
  · exact hs
  · exact hs.endTxSettle hp hr P
  · exact hs.endTxData hp hr hd
  · exact hs.endRxSettle hp

theorem WireOk.rstAssert (hs : WireOk s) : WireOk s.rstAssert := by
  obtain ⟨-, h⟩ | ⟨-, h⟩ := rstAssert_cases s <;> rw [h]
  · exact hs
  · rw [wireOk_iff, wireUntil_eq_now (.inr rfl)]
    exact BytesOk.cutWire hs s.now

theorem WireOk.rstRelease (hs : WireOk s) (P : Config.Params) : WireOk (s.rstRelease P) := by
  cases hr : s.rst with
  | true =>
    rw [rstRelease_eq hr]
    refine hs.of_same rfl ?_
    rw [wireUntil_eq_now (.inr hr), wireUntil_eq_now (.inl (by simp [State.resetWith]))]
  | false => simpa [State.rstRelease, hr] using hs

theorem WireOk.agentStep {P : Config.Params} {e : Event} (hs : WireOk s) (h : agentStep P e s = .next t) :
    WireOk t := by
  cases agentStep_arbiterStep h with
  | still k _ => exact hs.of_sameArbiter k (agentStep_now_le h)
  | grant p => exact hs.grant p
  | phaseEnd => exact hs.phaseEnd P
  | rstAssert => exact hs.rstAssert
  | rstRelease => exact hs.rstRelease P

end

/-- Settles O52: the data phase alone puts bytes on the wire, after all that were there and until its DEADLINE. -/
theorem wireInvariant : Obligations.WireInvariant := fun _ _ =>
  step_preserves (Inv := WireOk) (fun _ _ h => h) fun _ _ _ => WireOk.agentStep

end Sys2Proof.Machine

namespace Sys2Proof.Machine

/-! ## RST asserted on the line -/

section
variable {s : State}

theorem rstAssert_rst (s : State) : s.rstAssert.rst = true := by
  obtain ⟨hr, h⟩ | ⟨-, h⟩ := rstAssert_cases s <;> rw [h]
  exact hr

theorem rstAssert_answers (s : State) : s.rstAssert.answers = s.answers := by
  obtain ⟨-, h⟩ | ⟨-, h⟩ := rstAssert_cases s <;> rw [h]

/-- In IDLE and RX_SETTLE the outputs are already those of a block under RST (R34, R300). -/
theorem rstAssert_outputs (h : s.phase = .idle ∨ s.phase = .rxSettle) :
    s.rstAssert.edges = s.edges ∧ s.rstAssert.rxe = s.rxe ∧ s.rstAssert.txe = s.txe ∧ s.rstAssert.dir = s.dir := by
  obtain ⟨-, hres⟩ | ⟨hr, hres⟩ := rstAssert_cases s <;> rw [hres]
  · exact ⟨rfl, rfl, rfl, rfl⟩
  · rw [rxe_eq hr, txe_eq hr, dir_eq hr]
    obtain hp | hp := h <;> rw [hp] <;> exact ⟨rfl, rfl, rfl, rfl⟩

/-- Outside the data phase no byte is being sent, so none is cut. -/
theorem rstAssert_wire (hs : WireOk s) (h : s.phase ≠ .txData) : s.rstAssert.wire = s.wire := by
  obtain ⟨-, hall⟩ := hs.ended (.inl h)
  obtain ⟨-, hres⟩ | ⟨-, hres⟩ := rstAssert_cases s <;> rw [hres]
  exact cutWire_eq_self fun b hb => (hall b hb).2

/-- RST asserted while the block transmits turns the direction around and cuts the wire (R300, R312). -/
theorem rstAssert_transmitting (hr : s.rst = false) (h : s.phase = .txSettle ∨ s.phase = .txData) :
    s.rstAssert.edges = s.edges ++ edgesToReceive s.now ∧ s.rstAssert.wire = cutWire s.now s.wire := by
  have htx : s.phase.txe = true := by obtain hp | hp := h <;> rw [hp] <;> rfl
  obtain ⟨hr', -⟩ | ⟨-, hres⟩ := rstAssert_cases s
  · simp [hr] at hr'
  · rw [hres]
    exact ⟨if_pos htx, rfl⟩

end

/-- Settles O59: by the direction that the block has when RST is asserted. -/
theorem resetAssertedOnTheLine : Obligations.ResetAssertedOnTheLine := by
  refine ⟨fun P s => ⟨_, rfl, rstAssert_rst s, rstAssert_answers s, fun hp => ?_⟩, fun P s hr hp => ?_, ?_⟩
  · obtain ⟨hedges, hrxe, htxe, hdir⟩ := rstAssert_outputs hp
    exact ⟨hedges, hrxe, htxe, hdir, fun hs => rstAssert_wire hs (by obtain hp | hp := hp <;> simp [hp])⟩
  · obtain ⟨hedges, hwire⟩ := rstAssert_transmitting hr hp
    have hrst := rstAssert_rst s
    refine ⟨_, rfl, by simp [State.rxe, hrst], by simp [State.txe, hrst], hedges, ?_, ?_, ?_⟩ <;> rw [hwire]
    · exact fun b => stop_le_of_mem_cutWire
    · exact fun b hb hended => mem_cutWire.2 (.inl ⟨hb, hended⟩)
    · exact fun b hb hstart hstop => mem_cutWire.2 (.inr ⟨b, hb, hstart, hstop, rfl⟩)
  · rintro P s t hs ⟨hidle, -⟩ h
    cases h
    obtain ⟨hedges, hrxe, htxe, -⟩ := rstAssert_outputs (.inl hidle)
    exact ⟨rstAssert_wire hs (by simp [hidle]), hedges, hrxe, htxe⟩

/-! ## A busy line -/

/-- A grant takes an idle line and a port with a request (R204). -/
theorem grant_eq_self {s : State} {p : Nat} (h : s.phase ≠ .idle ∨ s.pend p = none) : s.grant p = s := by
  obtain hself | ⟨q, r, -, hi, hq, hp, -⟩ := grant_cases s p
  · exact hself
  · obtain h | h := h
    · exact absurd hi h
    · simp [pend_eq hq, hp] at h

/-- What a step taken on a busy line keeps from `s` to `t`: the registers that a line request writes, and the bytes in
RXFIFO, after which a byte of the peer may come while the receiver is on. -/
structure BusyKeeps (s t : State) : Prop where
  ctrl : t.ctrl = s.ctrl
  baud : t.baud = s.baud
  settleUs : t.settleUs = s.settleUs
  rxfifo : t.rxfifo = s.rxfifo ∨ ∃ x, s.rst = false ∧ s.phase.rxe = true ∧ t.rxfifo = s.rxfifo ++ [x]

section
variable {P : Config.Params} {s t : State}

theorem BusyKeeps.refl (s : State) : BusyKeeps s s := ⟨rfl, rfl, rfl, .inl rfl⟩

theorem hostBytes_busyKeeps (s : State) (p : Nat) (bs : Bytes) : BusyKeeps s (s.hostBytes p bs) := by
  obtain ⟨h, -⟩ | ⟨q, -, -, h⟩ := hostBytes_cases s p bs <;> rw [h] <;> exact ⟨rfl, rfl, rfl, .inl rfl⟩

theorem portStep_busyKeeps {p : Nat} (h : s.portStep p = .next t) : BusyKeeps s t := by
  obtain rfl | ⟨i, u, hf, hx⟩ := portStep_cases h
  · exact .refl t
  · obtain ⟨q, rest, -, -, -, -, rfl⟩ := fetch_eq_some hf
    have k := exec_keeps hx
    exact ⟨k.ctrl, k.baud, k.settleUs, .inl k.rxfifo⟩

theorem phaseEnd_busyKeeps (P : Config.Params) (s : State) : BusyKeeps s (s.phaseEnd P) := by
  obtain h | ⟨-, -, ⟨-, h⟩ | ⟨-, h⟩ | ⟨-, h⟩⟩ := phaseEnd_cases P s <;> constructor <;> simp [h]

theorem lineStart_busyKeeps (s : State) : BusyKeeps s s.lineStart := by
  unfold State.lineStart; split <;> exact ⟨rfl, rfl, rfl, .inl rfl⟩

theorem lineStop_busyKeeps (P : Config.Params) (s : State) (v : Byte) (framing : Bool) (drawn : Option Byte) :
    BusyKeeps s (s.lineStop P v framing drawn) := by
  obtain h | h | ⟨x, hr, hx, h⟩ := lineStop_cases P s v framing drawn <;> rw [h]
  · exact .refl s
  · exact ⟨rfl, rfl, rfl, .inl rfl⟩
  · obtain ⟨-, ha⟩ | ⟨-, ha⟩ := rxAccept_cases P { s with lineByte := none } x <;> rw [ha]
    · exact ⟨rfl, rfl, rfl, .inr ⟨x, hr, hx, rfl⟩⟩
    · exact ⟨rfl, rfl, rfl, .inl rfl⟩

theorem rstAssert_busyKeeps (s : State) : BusyKeeps s s.rstAssert := by
  obtain ⟨-, h⟩ | ⟨-, h⟩ := rstAssert_cases s <;> rw [h] <;> exact ⟨rfl, rfl, rfl, .inl rfl⟩

/-- All that a step on a busy line, but for the release of RST, does to the registers and RXFIFO. -/
theorem agentStep_busyKeeps {e : Event} (h : agentStep P e s = .next t) (hbusy : s.phase ≠ .idle)
    (hrelease : e ≠ .rstRelease) : BusyKeeps s t := by
  cases e with
  | host p bs => cases h; exact hostBytes_busyKeeps s p bs
  | port p => exact portStep_busyKeeps h
  | grant p => cases h; exact (grant_eq_self (.inl hbusy)).symm ▸ .refl s
  | phaseEnd => cases h; exact phaseEnd_busyKeeps P s
  | lineStart => cases h; exact lineStart_busyKeeps s
  | lineStop v framing drawn => cases h; exact lineStop_busyKeeps P s v framing drawn
  | clock d => cases h; constructor <;> simp
  | rstAssert => cases h; exact rstAssert_busyKeeps s
  | rstRelease => exact absurd rfl hrelease

end

/-- Settles O42: on a busy line a grant is no step, and no other agent writes the three registers. -/
theorem nothingGrantedWhileBusy : Obligations.NothingGrantedWhileBusy := by
  refine ⟨fun P s p h => congrArg Host.Outcome.next (grant_eq_self h), fun P e s t h hbusy hrelease => ?_⟩
  have k := agentStep_busyKeeps h hbusy hrelease
  exact ⟨k.ctrl, k.baud, k.settleUs⟩

/-- Settles O46: on a busy line RXFIFO grows, if at all, by a byte of the peer, for which the receiver is on. -/
theorem fifoDuringASend : Obligations.FifoDuringASend := by
  intro P e s t h hbusy hrelease
  obtain hsame | ⟨x, -, hrxe, hgrown⟩ := (agentStep_busyKeeps h hbusy hrelease).rxfifo
  · exact ⟨hsame ▸ List.prefix_rfl, fun _ _ => hsame⟩
  · refine ⟨hgrown ▸ List.prefix_append _ _, fun htx _ => ?_⟩
    simp [(Phase.rxe_eq_false_iff s.phase).2 htx] at hrxe

end Sys2Proof.Machine

namespace Sys2Proof.Machine

/-! ## The line commands, form by form -/

/-! ### Their checks and requests (R214, R220, R253) -/

section
variable {s : State} {q : Port} (hq : s.ports[s.cur]? = some q)
include hq

theorem exec_xcvrSend_eArg {arg : Byte} (h : arg ≠ 0x00) (d : Bytes) :
    exec (.xcvrSend arg d) s = .next (s.errWith q .eArg) := by
  rw [exec, execXcvrSend, if_pos h]
  exact raise_eq hq .eArg

theorem exec_xcvrSend_request (d : Bytes) : exec (.xcvrSend 0x00 d) s = .next (s.pendWith q (.send d)) :=
  request_eq hq (.send d)

theorem exec_xcvrRecv_eArg {arg : Byte} (h : arg ≠ 0x00) (m : Half) :
    exec (.xcvrRecv arg m) s = .next (s.errWith q .eArg) := by
  rw [exec, execXcvrRecv, if_pos h]
  exact raise_eq hq .eArg

theorem exec_xcvrRecv_request (m : Half) : exec (.xcvrRecv 0x00 m) s = .next (s.pendWith q (.recv m)) :=
  request_eq hq (.recv m)

theorem exec_cfgWrite_eArg {arg : Byte} {din : Bytes} (h : 4 ≤ arg.toNat ∨ din.length ≠ 4) :
    exec (.cfgWrite arg din) s = .next (s.errWith q .eArg) := by
  rw [exec, execCfgWrite]
  cases hr : regArg arg with
  | none => exact raise_eq hq .eArg
  | some r =>
    have hlen : din.length ≠ 4 := h.resolve_left fun h4 => by simp [regArg_eq_none h4] at hr
    simpa only [if_pos hlen] using raise_eq hq .eArg

variable {din : Bytes} (hlen : din.length = 4)
include hlen

theorem exec_cfgWrite_ctrl :
    exec (.cfgWrite 0x00 din) s = .next (s.pendWith q (.cfgw .ctrl (wordOperand din))) := by
  rw [exec, execCfgWrite, show regArg 0x00 = some .ctrl from rfl]
  simpa only [if_neg (not_not.2 hlen)] using request_eq hq _

theorem exec_cfgWrite_baud (hv : wordOperand din ≠ 0) :
    exec (.cfgWrite 0x01 din) s = .next (s.pendWith q (.cfgw .baud (wordOperand din))) := by
  rw [exec, execCfgWrite, show regArg 0x01 = some .baud from rfl]
  simpa only [if_neg (not_not.2 hlen), if_neg hv] using request_eq hq _

theorem exec_cfgWrite_baud_zero (hv : wordOperand din = 0) :
    exec (.cfgWrite 0x01 din) s = .next (s.errWith q .eArg) := by
  rw [exec, execCfgWrite, show regArg 0x01 = some .baud from rfl]
  simpa only [if_neg (not_not.2 hlen), if_pos hv] using raise_eq hq .eArg

theorem exec_cfgWrite_settleUs :
    exec (.cfgWrite 0x02 din) s = .next (s.pendWith q (.cfgw .settleUs (wordOperand din))) := by
  rw [exec, execCfgWrite, show regArg 0x02 = some .settleUs from rfl]
  simpa only [if_neg (not_not.2 hlen)] using request_eq hq _

theorem exec_cfgWrite_status :
    exec (.cfgWrite 0x03 din) s = .next ((s.writeStatus (wordOperand din)).okWith q 0x00 []) := by
  rw [exec, execCfgWrite, show regArg 0x03 = some .status from rfl]
  simp only [if_neg (not_not.2 hlen)]
  exact respond_eq (s := s.writeStatus (wordOperand din)) hq .ok 0x00 []

end

/-! ### The grant of a request just made (R204) -/

section
variable {s : State} {q : Port} (hq : s.ports[s.cur]? = some q)
include hq

/-- The port that has made a request holds it. -/
theorem pendWith_port (r : Request) : (s.pendWith q r).ports[s.cur]? = some { q with pend := some r } := by
  have hp : s.cur < s.ports.length := (List.getElem?_eq_some_iff.1 hq).1
  simp [hp]

theorem pendWith_grant (hr : s.rst = false) (hi : s.phase = .idle) (r : Request) :
    (s.pendWith q r).grant s.cur = (s.pendWith q r).serve s.cur r := grant_eq hr hi (pendWith_port hq r) rfl

theorem pendWith_clearPend_answer (r : Request) (resp : Response) :
    ((s.pendWith q r).clearPend s.cur).answer s.cur resp = s.ended { q with pend := none, cmd := none } resp := by
  have hports := answer_clearPend_ports (pendWith_port hq r) resp
  rw [State.pendWith_ports, List.set_set] at hports
  simp only [State.answer_ports] at hports
  simp only [State.answer, State.modPort, hports]
  rfl

/-- The grant of a poll: the bytes it returns leave RXFIFO (R220). -/
theorem pendWith_grantRecv (m : Half) :
    (s.pendWith q (.recv m)).grantRecv s.cur m =
      ({ s with rxfifo := s.rxfifo.drop m.toNat } : State).okWith { q with pend := none } 0x00 (s.polled m) := by
  rw [State.grantRecv, pendWith_clearPend_answer hq]
  rfl

/-- The grant of a register write: the register is written, and the port answered (R225). -/
theorem pendWith_grantCfgw (reg : LineReg) (v : Word) :
    (s.pendWith q (.cfgw reg v)).grantCfgw s.cur reg v =
      (s.writeLineReg reg v).okWith { q with pend := none } 0x00 [] := by
  have hswap : (s.pendWith q (.cfgw reg v)).grantCfgw s.cur reg v =
      (((s.pendWith q (.cfgw reg v)).clearPend s.cur).answer s.cur ⟨.ok, 0x00, []⟩).writeLineReg reg v := by
    cases reg <;> rfl
  rw [hswap, pendWith_clearPend_answer hq]
  cases reg <;> rfl

end

/-! ### What is returned and what is written -/

/-- The bytes of a poll, complemented when CTRL.INVERT is 1 (R221). -/
theorem polled_eq (s : State) (m : Half) :
    s.polled m =
      if s.ctrl.getLsbD 0 = true then (s.rxfifo.take m.toNat).map (fun b => ~~~b) else s.rxfifo.take m.toNat := by
  have hnot (b : Byte) : b ^^^ 0xFF = ~~~b := BitVec.xor_allOnes
  unfold State.polled State.invertMask State.invert
  split
  · simp only [hnot]
  · simp

/-- The operand of `CFG_WRITE` is its four bytes side by side (R73). -/
theorem wordOperand_eq_append (b0 b1 b2 b3 : Byte) :
    wordOperand [b0, b1, b2, b3] = (b0 ++ b1 : BitVec 16) ++ (b2 ++ b3 : BitVec 16) := by
  apply BitVec.eq_of_toNat_eq
  have h0 := b0.isLt
  have h1 := b1.isLt
  have hlo := (b2 ++ b3 : BitVec 16).isLt
  rw [BitVec.toNat_append, ← Nat.shiftLeft_add_eq_or_of_lt hlo, Nat.shiftLeft_eq, append_toNat, append_toNat]
  rw [append_toNat] at hlo
  simp only [wordOperand, be_quad, BitVec.toNat_ofNat]
  omega

/-- Bit 2 of STATUS clears RX_OVF (R257). -/
theorem writeStatus_eq (s : State) (v : Word) :
    s.writeStatus v = { s with rxOvf := if v.getLsbD 2 then false else s.rxOvf } := by
  unfold State.writeStatus
  cases v.getLsbD 2 <;> simp

/-- CTRL keeps bit 0 (R254). -/
theorem and_one_eq (v : Word) : v &&& 0x00000001 = if v.getLsbD 0 then 1 else 0 := by
  rw [show (0x00000001 : Word) = 1#32 from rfl, BitVec.and_one_eq_setWidth_ofBool_getLsbD]
  cases v.getLsbD 0 <;> rfl

/-- SETTLE_US keeps its low half (R255). -/
theorem and_low_half_eq (v : Word) : v &&& 0x0000FFFF = 0#16 ++ v.extractLsb' 0 16 := by
  have hlt : v.toNat % 2 ^ 16 < 2 ^ 16 := Nat.mod_lt _ (by decide)
  apply BitVec.eq_of_toNat_eq
  rw [BitVec.toNat_and, BitVec.toNat_append]
  simpa using Nat.and_two_pow_sub_one_eq_mod v.toNat 16

/-- Settles O39. -/
theorem xcvrRecvAnswers : Obligations.XcvrRecvAnswers := by
  intro s q arg m hq
  refine ⟨fun h => exec_xcvrRecv_eArg hq h m, exec_xcvrRecv_request hq m, fun hr hi => ?_⟩
  refine ⟨s.rxfifo.take m.toNat, s.rxfifo.drop m.toNat, (List.take_append_drop _ _).symm, List.length_take, ?_⟩
  rw [pendWith_grant hq hr hi, ← polled_eq]
  exact pendWith_grantRecv hq m

/-- Settles O49, register by register. -/
theorem cfgWriteAnswers : Obligations.CfgWriteAnswers := by
  intro s q arg din hq
  refine ⟨exec_cfgWrite_eArg hq, ?_⟩
  rintro b0 b1 b2 b3 v rfl rfl
  rw [← wordOperand_eq_append, ← writeStatus_eq]
  refine ⟨exec_cfgWrite_status hq rfl, exec_cfgWrite_ctrl hq rfl, exec_cfgWrite_baud_zero hq rfl,
    exec_cfgWrite_baud hq rfl, exec_cfgWrite_settleUs hq rfl, fun hr hi => ?_⟩
  rw [← and_one_eq, ← and_low_half_eq]
  refine ⟨?_, ?_, ?_⟩ <;> rw [pendWith_grant hq hr hi] <;> exact pendWith_grantCfgw hq _ _

/-! ### A send, from its grant to its answer -/

theorem clock_eq {d : Rat} (h : 0 ≤ d) (s : State) : s.clock d = { s with now := s.now + d } := if_pos h

section
variable {P : Config.Params} {s : State} {d : Rat} (hr : s.rst = false) (h : 0 ≤ d) (hd : s.deadline ≤ s.now + d)
include hr h hd

/-- The time of a phase goes by, and the arbiter ends it (R207, R212, R213). -/
theorem runEvents_txSettle (hp : s.phase = .txSettle) (es : List Event) :
    runEvents P (.clock d :: .phaseEnd :: es) s = runEvents P es ((s.clock d).endTxSettle P) := by
  rw [runEvents_cons rfl, runEvents_cons rfl,
    phaseEnd_txSettle (by simpa using hr) (by simpa using hp) (by simpa [h] using hd)]

theorem runEvents_txData (hp : s.phase = .txData) (es : List Event) :
    runEvents P (.clock d :: .phaseEnd :: es) s = runEvents P es (s.clock d).endTxData := by
  rw [runEvents_cons rfl, runEvents_cons rfl,
    phaseEnd_txData (by simpa using hr) (by simpa using hp) (by simpa [h] using hd)]

theorem runEvents_rxSettle (hp : s.phase = .rxSettle) (es : List Event) :
    runEvents P (.clock d :: .phaseEnd :: es) s = runEvents P es (s.clock d).endRxSettle := by
  rw [runEvents_cons rfl, runEvents_cons rfl,
    phaseEnd_rxSettle (by simpa using hr) (by simpa using hp) (by simpa [h] using hd)]

end

/-- A granted send of port `p`, with the settle time, the time of its bytes and the settle time again gone by. -/
theorem runEvents_grantSend (P : Config.Params) {s : State} (hr : s.rst = false) (p : Nat) (d : Bytes) {a b c : Rat}
    (ha : (s.settle.toNat : Rat) ≤ a) (hb : tWire P s.baud d.length ≤ b) (hc : (s.settle.toNat : Rat) ≤ c) :
    runEvents P [.clock a, .phaseEnd, .clock b, .phaseEnd, .clock c, .phaseEnd] (s.grantSend p d) =
      .next { (s.clearPend p).answer p ⟨.ok, 0x00, []⟩ with
        phase := .idle
        owner := none
        txq := []
        txmask := s.invertMask
        deadline := s.now + a + b + (s.settle.toNat : Rat)
        now := s.now + a + b + c
        lineByte := s.lineByte.map RxWatch.onRxeFall
        answers := s.answers ++ [⟨p, s.now + a + b + c, ⟨.ok, 0x00, []⟩⟩]
        wire := s.wire ++ emission s.invertMask (tByte P s.baud) (s.now + a) d
        edges := s.edges ++ edgesToTransmit s.now ++ edgesToReceive (s.now + a + b) } := by
  have ha0 : 0 ≤ a := (Nat.cast_nonneg _).trans ha
  have hb0 : 0 ≤ b := (tWire_nonneg P s.baud d.length).trans hb
  have hc0 : 0 ≤ c := (Nat.cast_nonneg _).trans hc
  have hdata := runEvents_txSettle (P := P) (s := s.grantSend p d) hr ha0 (by simpa using ha) rfl
  have hend := runEvents_txData (P := P) (s := ((s.grantSend p d).clock a).endTxSettle P) (by simpa using hr) hb0
    (by simpa [ha0] using hb) rfl
  have hidle := runEvents_rxSettle (P := P) (s := (((s.grantSend p d).clock a).endTxSettle P |>.clock b).endTxData)
    (by simpa using hr) hc0 (by simpa [ha0, hb0, State.settle] using hc) rfl
  rw [hdata, hend, hidle, clock_eq ha0, clock_eq hb0, clock_eq hc0]
  rfl

/-- Settles O37: the grant, the three phases, and the port's record after them. -/
theorem xcvrSendRunsToItsAnswer : Obligations.XcvrSendRunsToItsAnswer := by
  intro P s q arg d hq
  refine ⟨fun h => exec_xcvrSend_eArg hq h d, exec_xcvrSend_request hq d, fun a b c hr hi ha hb hc => ?_⟩
  rw [runEvents_cons rfl, pendWith_grant hq hr hi, State.serve]
  refine (runEvents_grantSend P (s := s.pendWith q (.send d)) hr s.cur d ha hb hc).trans ?_
  rw [pendWith_clearPend_answer hq, ← hi]
  rfl

end Sys2Proof.Machine

namespace Sys2Proof.Machine

/-! ## Streams of agents' steps -/

/-- One more step of a stream is a step of its agent, or leaves the state as it is. -/
theorem follow_succ_cases (P : Config.Params) (ev : Nat → Event) (s : State) (n : Nat) :
    agentStep P (ev n) (follow P ev s n) = .next (follow P ev s (n + 1)) ∨
    follow P ev s (n + 1) = follow P ev s n := by
  cases h : agentStep P (ev n) (follow P ev s n) with
  | next t => exact .inl (by rw [follow_succ h])
  | fault r => exact .inr (by simp only [follow, h])
  | refused r => exact .inr (by simp only [follow, h])

/-- What holds after `m` steps of a stream and is kept by every later step holds from then on. -/
theorem follow_induction {P : Config.Params} {ev : Nat → Event} {s : State} {Inv : State → Prop} {m n : Nat}
    (hmn : m ≤ n) (hm : Inv (follow P ev s m))
    (hstep : ∀ k, m ≤ k → k < n → ∀ u t, Inv u → agentStep P (ev k) u = .next t → Inv t) :
    Inv (follow P ev s n) := by
  induction n, hmn using Nat.le_induction with
  | base => exact hm
  | succ n hmn ih =>
    have hn := ih fun k hk hlt => hstep k hk (Nat.lt_succ_of_lt hlt)
    obtain h | h := follow_succ_cases P ev s n
    · exact hstep n hmn n.lt_succ_self _ _ hn h
    · rwa [h]

/-- Without a reset the block stays out of it. -/
theorem agentStep_rst {P : Config.Params} {e : Event} {s t : State} (h : agentStep P e s = .next t)
    (hr : s.rst = false) (hassert : e ≠ .rstAssert) : t.rst = false := by
  cases agentStep_arbiterStep h with
  | still k _ => exact k.rst.trans hr
  | grant p =>
    obtain h | ⟨q, r, -, -, -, -, h⟩ := grant_cases s p <;> rw [h]
    · exact hr
    · cases r with
      | send d => exact hr
      | recv m => exact hr
      | cfgw reg v => cases reg <;> exact hr
  | phaseEnd => obtain h | ⟨-, -, ⟨-, h⟩ | ⟨-, h⟩ | ⟨-, h⟩⟩ := phaseEnd_cases P s <;> simpa [h] using hr
  | rstAssert => exact absurd rfl hassert
  | rstRelease => simp [State.rstRelease, hr]

/-! ## How long a send holds the line -/

/-- The earliest time at which the line can be idle: each phase still to run ends no earlier than its time after the one
before (R207, R211, R213). -/
def State.freeAt (P : Config.Params) (s : State) : Rat :=
  match s.phase with
  | .idle => s.now
  | .txSettle => s.deadline + tWire P s.baud s.txq.length + (s.settle.toNat : Rat)
  | .txData => s.deadline + (s.settle.toNat : Rat)
  | .rxSettle => s.deadline

section
variable {P : Config.Params} {s t : State}

theorem freeAt_idle (h : s.phase = .idle) : s.freeAt P = s.now := by simp only [State.freeAt, h]

theorem freeAt_txSettle (h : s.phase = .txSettle) :
    s.freeAt P = s.deadline + tWire P s.baud s.txq.length + (s.settle.toNat : Rat) := by simp only [State.freeAt, h]

theorem freeAt_txData (h : s.phase = .txData) : s.freeAt P = s.deadline + (s.settle.toNat : Rat) := by
  simp only [State.freeAt, h]

theorem freeAt_rxSettle (h : s.phase = .rxSettle) : s.freeAt P = s.deadline := by simp only [State.freeAt, h]

/-- At its grant a send takes the line for two settle times and the time of its bytes (R217). -/
theorem freeAt_grantSend (s : State) (p : Nat) (d : Bytes) :
    (s.grantSend p d).freeAt P = s.now + 2 * (s.settle.toNat : Rat) + tWire P s.baud d.length := by
  have hsettle : (s.grantSend p d).settle = s.settle := rfl
  rw [freeAt_txSettle rfl, hsettle, State.grantSend_deadline, State.grantSend_baud, State.grantSend_txq]
  ring

theorem freeAt_le_grant (s : State) (p : Nat) : s.freeAt P ≤ (s.grant p).freeAt P := by
  obtain h | ⟨q, r, -, hi, -, -, h⟩ := grant_cases s p <;> rw [h]
  cases r with
  | send d =>
    have hsettle : (0 : Rat) ≤ s.settle.toNat := Nat.cast_nonneg _
    have hwire := tWire_nonneg P s.baud d.length
    rw [freeAt_idle hi, State.serve, freeAt_grantSend]
    linarith
  | recv m => exact (freeAt_idle hi).trans_le (freeAt_idle (s := s.grantRecv p m) hi).ge
  | cfgw reg v =>
    have hi' : (s.grantCfgw p reg v).phase = .idle := by simpa [State.grantCfgw] using hi
    rw [freeAt_idle hi, State.serve, freeAt_idle hi']
    simp [State.grantCfgw]

/-- A phase ends no earlier than its DEADLINE, and the next one takes its whole time from then. -/
theorem freeAt_le_phaseEnd (P : Config.Params) (s : State) : s.freeAt P ≤ (s.phaseEnd P).freeAt P := by
  obtain h | ⟨-, hd, ⟨hp, h⟩ | ⟨hp, h⟩ | ⟨hp, h⟩⟩ := phaseEnd_cases P s <;> rw [h]
  · have hsettle : (s.endTxSettle P).settle = s.settle := rfl
    rw [freeAt_txSettle hp, freeAt_txData (s := s.endTxSettle P) rfl, hsettle, State.endTxSettle_deadline]
    linarith
  · have hsettle : s.endTxData.settle = s.settle := rfl
    rw [freeAt_txData hp, freeAt_rxSettle (s := s.endTxData) rfl, State.endTxData_deadline]
    linarith
  · rw [freeAt_rxSettle hp, freeAt_idle (by simp), State.endRxSettle_now]
    exact hd

/-- Without a reset the line is never free earlier for a step: the agents that leave the arbiter alone leave the registers
too while the line is busy. -/
theorem freeAt_le_agentStep {e : Event} (h : agentStep P e s = .next t) (hr : s.rst = false)
    (hassert : e ≠ .rstAssert) : s.freeAt P ≤ t.freeAt P := by
  cases agentStep_arbiterStep h with
  | grant p => exact freeAt_le_grant s p
  | phaseEnd => exact freeAt_le_phaseEnd P s
  | rstAssert => exact absurd rfl hassert
  | rstRelease => simp [State.rstRelease, hr]
  | still k hrelease =>
    by_cases hi : s.phase = .idle
    · rw [freeAt_idle hi, freeAt_idle (k.phase.trans hi)]
      exact agentStep_now_le h
    · have b := agentStep_busyKeeps h hi hrelease
      cases hp : s.phase with
      | idle => exact absurd hp hi
      | _ => simp only [State.freeAt, State.settle, k.phase, hp, k.deadline, k.txq, b.baud, b.settleUs, le_refl]

end

/-- Settles O40: the time at which the line can be free is set at the grant, and no step makes it earlier. -/
theorem sendHoldsTheLine : Obligations.SendHoldsTheLine := by
  intro P ev s p d n hr hi hp hgrant hno hn hidle
  obtain ⟨q, hq, hqp⟩ := port_of_pend hp
  have hfirst : follow P ev s 1 = s.grantSend p d := by
    refine follow_succ (n := 0) ?_
    rw [hgrant, follow, agentStep, grant_eq hr hi hq hqp]
    rfl
  have hkept : (follow P ev s n).rst = false ∧ (s.grantSend p d).freeAt P ≤ (follow P ev s n).freeAt P := by
    refine follow_induction (Inv := fun u => u.rst = false ∧ (s.grantSend p d).freeAt P ≤ u.freeAt P) hn ?_ ?_
    · rw [hfirst]
      exact ⟨hr, le_rfl⟩
    · rintro k - hk u t ⟨hur, hle⟩ h
      exact ⟨agentStep_rst h hur (hno k hk), hle.trans (freeAt_le_agentStep h hur (hno k hk))⟩
  obtain ⟨-, hle⟩ := hkept
  rwa [freeAt_idle hidle, freeAt_grantSend] at hle

end Sys2Proof.Machine

namespace Sys2Proof.Machine

/-! ## A request waits for its grant -/

theorem grantable_iff (s : State) (p : Nat) :
    s.grantable p = true ↔ s.phase = .idle ∧ ∃ r, s.pend p = some r := by
  simp [State.grantable, Option.isSome_iff_exists]

section
variable {P : Config.Params} {s t : State} {p : Nat}

theorem pend_congr (h : t.ports[p]? = s.ports[p]?) : t.pend p = s.pend p := by simp only [State.pend, h]

/-- A change of a port's record that is none of its request. -/
theorem pend_of_modify {p' : Nat} {f : Port → Port} (h : t.ports = s.ports.modify p' f)
    (hf : ∀ q, (f q).pend = q.pend) : t.pend p = s.pend p := by
  simp only [State.pend, h, List.getElem?_modify]
  cases s.ports[p]? with
  | none => rfl
  | some q => by_cases hp : p' = p <;> simp [hp, hf]

theorem hostBytes_pend (s : State) (p' : Nat) (bs : Bytes) : (s.hostBytes p' bs).pend p = s.pend p := by
  unfold State.hostBytes
  split
  · rfl
  · exact pend_of_modify rfl fun _ => rfl

/-- A port that waits is not free, so it fetches no command; and no port's command touches another's record. -/
theorem portStep_pend_of_lineOk {p' : Nat} {r : Request} (hs : LineOk P s) (hp : s.pend p = some r)
    (h : s.portStep p' = .next t) : t.pend p = some r := by
  obtain rfl | ⟨i, u, hf, hx⟩ := portStep_cases h
  · exact hp
  · obtain ⟨q', rest, -, hq', hc, -, rfl⟩ := fetch_eq_some hf
    obtain ⟨q, hq, hqp⟩ := port_of_pend hp
    have hne : p ≠ p' := by
      rintro rfl
      obtain rfl : q' = q := Option.some.inj (hq'.symm.trans hq)
      obtain ⟨j, hj, -⟩ := (hs.port hq).of_pend hqp
      simp [hc] at hj
    have hports := (exec_keeps hx).others p hne
    rw [List.getElem?_set_ne hne.symm] at hports
    rw [pend_congr hports, hp]

/-- A grant of another port's request. -/
theorem serve_ports_of_ne {p' : Nat} (hne : p ≠ p') (s : State) (r : Request) :
    (s.serve p' r).ports[p]? = s.ports[p]? := by
  cases r <;> simp [State.serve, State.grantRecv, State.grantCfgw, hne.symm]

theorem phaseEnd_pend (P : Config.Params) (s : State) : (s.phaseEnd P).pend p = s.pend p := by
  obtain h | ⟨-, -, ⟨-, h⟩ | ⟨-, h⟩ | ⟨-, h⟩⟩ := phaseEnd_cases P s <;> rw [h]
  · rfl
  · rfl
  · cases ho : s.owner with
    | none => exact pend_congr (by rw [State.endRxSettle_ports, ho])
    | some o =>
      have hports : s.endRxSettle.ports = s.ports.modify o (fun q => { q with cmd := none }) := by
        rw [State.endRxSettle_ports, ho]
      exact pend_of_modify hports fun _ => rfl

/-- A request stays until the arbiter grants it (R202, R204). -/
theorem agentStep_pend_of_lineOk {e : Event} {r : Request} (hs : LineOk P s) (hr : s.rst = false)
    (h : agentStep P e s = .next t) (hp : s.pend p = some r) :
    t.pend p = some r ∨ (e = .grant p ∧ s.grantable p = true) := by
  have still (ht : t.pend p = s.pend p) : t.pend p = some r ∨ (e = .grant p ∧ s.grantable p = true) :=
    .inl (ht.trans hp)
  cases e with
  | host p' bs => cases h; exact still (hostBytes_pend s p' bs)
  | port p' => exact .inl (portStep_pend_of_lineOk hs hp h)
  | grant p' =>
    cases h
    obtain hself | ⟨q, r', -, hi, -, -, hserve⟩ := grant_cases s p'
    · exact still (by rw [hself])
    · by_cases hne : p = p'
      · exact .inr ⟨hne ▸ rfl, (grantable_iff s p).2 ⟨hi, r, hp⟩⟩
      · exact still (pend_congr (by rw [hserve, serve_ports_of_ne hne]))
  | phaseEnd => cases h; exact still (phaseEnd_pend P s)
  | lineStart =>
    cases h
    refine still (pend_congr ?_)
    unfold State.lineStart; split <;> rfl
  | lineStop v framing drawn =>
    cases h
    refine still (pend_congr ?_)
    obtain h | h | ⟨x, -, -, h⟩ := lineStop_cases P s v framing drawn <;> simp [h]
  | clock d => cases h; exact still (pend_congr (by simp))
  | rstAssert =>
    cases h
    refine still (pend_congr ?_)
    obtain ⟨-, h⟩ | ⟨-, h⟩ := rstAssert_cases s <;> rw [h]
  | rstRelease => cases h; exact still (by simp [State.rstRelease, hr])

end

/-! ## No answer is taken back -/

section
variable {P : Config.Params} {s t : State}

theorem exec_answers_prefix {i : Instr} (h : exec i s = .next t) : s.answers <+: t.answers := by
  obtain ⟨q, hq, -⟩ := exec_executed h
  obtain ⟨r, -, hx⟩ | ⟨-, u, hx, hends⟩ := exec_cases i hq
  · obtain rfl : s.pendWith q r = t := Host.Outcome.next.inj (hx.symm.trans h)
    exact List.prefix_rfl
  · obtain rfl : u = t := Host.Outcome.next.inj (hx.symm.trans h)
    obtain ⟨resp, q', hans, -⟩ := hends.answered
    exact hans ▸ List.prefix_append _ _

theorem agentStep_answers_prefix {e : Event} (h : agentStep P e s = .next t) : s.answers <+: t.answers := by
  have same {u : State} (hu : u.answers = s.answers) : s.answers <+: u.answers := hu ▸ List.prefix_rfl
  cases e with
  | host p bs =>
    cases h
    obtain ⟨h, -⟩ | ⟨q, -, -, h⟩ := hostBytes_cases s p bs <;> exact same (by rw [h])
  | port p =>
    obtain rfl | ⟨i, u, hf, hx⟩ := portStep_cases h
    · exact List.prefix_rfl
    · obtain ⟨q, rest, -, -, -, -, rfl⟩ := fetch_eq_some hf
      exact exec_answers_prefix (s := { s with cur := p, ports := _ }) hx
  | grant p =>
    cases h
    obtain h | ⟨q, r, -, -, -, -, h⟩ := grant_cases s p <;> rw [h]
    cases r with
    | send d => exact List.prefix_rfl
    | recv m => exact List.prefix_append _ _
    | cfgw reg v => cases reg <;> exact List.prefix_append _ _
  | phaseEnd =>
    cases h
    obtain h | ⟨-, -, ⟨-, h⟩ | ⟨-, h⟩ | ⟨-, h⟩⟩ := phaseEnd_cases P s <;> rw [h]
    · exact List.prefix_rfl
    · exact List.prefix_rfl
    · rw [State.endRxSettle_answers]
      split
      · exact List.prefix_append _ _
      · exact List.prefix_rfl
  | lineStart => cases h; refine same ?_; unfold State.lineStart; split <;> rfl
  | lineStop v framing drawn =>
    cases h
    obtain h | h | ⟨x, -, -, h⟩ := lineStop_cases P s v framing drawn <;> exact same (by simp [h])
  | clock d => cases h; exact same (by simp)
  | rstAssert => cases h; exact same (rstAssert_answers s)
  | rstRelease =>
    cases h
    cases hr : s.rst with
    | true => rw [rstRelease_eq hr]
    | false => simp [State.rstRelease, hr]

end

theorem follow_answers_prefix (P : Config.Params) (ev : Nat → Event) (s : State) (n : Nat) :
    s.answers <+: (follow P ev s n).answers :=
  follow_induction (Inv := fun u => s.answers <+: u.answers) n.zero_le List.prefix_rfl
    fun _ _ _ _ _ hu h => hu.trans (agentStep_answers_prefix h)

/-- Since `s`, port `p` has been answered OK by the state `t`. -/
def AnsweredOk (s : State) (p : Nat) (t : State) : Prop :=
  ∃ a ∈ t.answers.drop s.answers.length, a.port = p ∧ a.resp.status = .ok

/-- The answer sent by one more step of a stream has been sent since its first state. -/
theorem answeredOk_of_append {P : Config.Params} {ev : Nat → Event} {s t : State} {n p : Nat} {a : Answer}
    (h : t.answers = (follow P ev s n).answers ++ [a]) (hp : a.port = p) (hok : a.resp.status = .ok) :
    AnsweredOk s p t := by
  obtain ⟨as, has⟩ := follow_answers_prefix P ev s n
  refine ⟨a, ?_, hp, hok⟩
  rw [h, ← has, List.append_assoc, List.drop_left]
  simp

/-! ## Under fairness every phase ends -/

theorem SameArbiter.trans {s t u : State} (h : SameArbiter s t) (h' : SameArbiter t u) : SameArbiter s u :=
  ⟨h'.phase.trans h.phase, h'.owner.trans h.owner, h'.txq.trans h.txq, h'.txmask.trans h.txmask,
    h'.deadline.trans h.deadline, h'.rst.trans h.rst, h'.edges.trans h.edges, h'.wire.trans h.wire⟩

/-- On a busy line a step that is not the end of the phase leaves the arbiter alone. -/
theorem agentStep_busy {P : Config.Params} {e : Event} {s t : State} (h : agentStep P e s = .next t)
    (hr : s.rst = false) (hassert : e ≠ .rstAssert) (hbusy : s.phase ≠ .idle) :
    SameArbiter s t ∨ (e = .phaseEnd ∧ s.phaseEndEnabled = true) := by
  cases agentStep_arbiterStep h with
  | still k _ => exact .inl k
  | grant p => exact .inl ((grant_eq_self (.inl hbusy)).symm ▸ .refl s)
  | phaseEnd =>
    cases hen : s.phaseEndEnabled with
    | true => exact .inr ⟨rfl, rfl⟩
    | false => exact .inl (by simp [State.phaseEnd, hen, SameArbiter.refl])
  | rstAssert => exact absurd rfl hassert
  | rstRelease => exact .inl (by simp [State.rstRelease, hr, SameArbiter.refl])

section
variable {P : Config.Params} {ev : Nat → Event} {s : State}

theorem follow_now_le {m n : Nat} (h : m ≤ n) : (follow P ev s m).now ≤ (follow P ev s n).now :=
  follow_induction (Inv := fun u => (follow P ev s m).now ≤ u.now) h le_rfl
    fun _ _ _ _ _ hu h => hu.trans (agentStep_now_le h)

theorem follow_phaseEnd {m : Nat} (h : ev m = .phaseEnd) :
    follow P ev s (m + 1) = (follow P ev s m).phaseEnd P := follow_succ (by rw [h]; rfl)

/-- After the first `k` steps of the stream the arbiter comes to the end of RX_SETTLE with the owner that it has then. -/
def SendEnds (P : Config.Params) (ev : Nat → Event) (s : State) (k : Nat) : Prop :=
  ∃ m, k ≤ m ∧ (follow P ev s m).owner = (follow P ev s k).owner ∧
    follow P ev s (m + 1) = (follow P ev s m).endRxSettle

theorem SendEnds.of_later {k m : Nat} (h : SendEnds P ev s m) (hkm : k ≤ m)
    (howner : (follow P ev s m).owner = (follow P ev s k).owner) : SendEnds P ev s k := by
  obtain ⟨n, hn, hn', hend⟩ := h
  exact ⟨n, hkm.trans hn, hn'.trans howner, hend⟩

variable (hf : Fair P ev s) (hr : s.rst = false)
include hf hr

theorem Fair.rst (n : Nat) : (follow P ev s n).rst = false :=
  follow_induction (Inv := fun u => u.rst = false) n.zero_le hr
    fun k _ _ _ _ hu h => agentStep_rst h hu (hf.noReset k)

/-- A phase that runs is ended by the arbiter, for until then nothing about it changes, and its DEADLINE passes. -/
theorem Fair.phase_ends {k : Nat} (hbusy : (follow P ev s k).phase ≠ .idle) :
    ∃ m, k ≤ m ∧ SameArbiter (follow P ev s k) (follow P ev s m) ∧
      (follow P ev s m).phaseEndEnabled = true ∧ ev m = .phaseEnd := by
  by_contra hno
  have hnever (m : Nat) (hm : k ≤ m) (hsame : SameArbiter (follow P ev s k) (follow P ev s m)) :
      ¬ (ev m = .phaseEnd ∧ (follow P ev s m).phaseEndEnabled = true) :=
    fun ⟨hend, hen⟩ => hno ⟨m, hm, hsame, hen, hend⟩
  have hsame (m : Nat) (hm : k ≤ m) : SameArbiter (follow P ev s k) (follow P ev s m) := by
    induction m, hm using Nat.le_induction with
    | base => exact .refl _
    | succ m hm ih =>
      obtain h | h := follow_succ_cases P ev s m
      · have hbusy' : (follow P ev s m).phase ≠ .idle := ih.phase ▸ hbusy
        exact ih.trans ((agentStep_busy h (hf.rst hr m) (hf.noReset m) hbusy').resolve_right (hnever m hm ih))
      · rwa [h]
  obtain ⟨n, hn⟩ := hf.timeDiverges (follow P ev s k).deadline
  have henabled (m : Nat) (hm : max k n ≤ m) : (follow P ev s m).phaseEndEnabled = true := by
    have hk := hsame m (le_of_max_le_left hm)
    refine (phaseEndEnabled_iff _).2 ⟨hf.rst hr m, hk.phase ▸ hbusy, ?_⟩
    exact hk.deadline.trans_le (hn.trans (follow_now_le (le_of_max_le_right hm)))
  obtain ⟨m, hm, hend⟩ := hf.phasesEnd (max k n) henabled
  have hkm := le_of_max_le_left hm
  exact hnever m hkm (hsame m hkm) ⟨hend, henabled m hm⟩

/-- A phase that runs comes to its end with the same owner, not before its DEADLINE. -/
theorem Fair.reaches_phaseEnd {k : Nat} (hbusy : (follow P ev s k).phase ≠ .idle) :
    ∃ m, (follow P ev s m).phase = (follow P ev s k).phase ∧ (follow P ev s m).owner = (follow P ev s k).owner ∧
      (follow P ev s m).deadline ≤ (follow P ev s m).now ∧ k ≤ m ∧
      follow P ev s (m + 1) = (follow P ev s m).phaseEnd P := by
  obtain ⟨m, hm, hsame, hen, hend⟩ := hf.phase_ends hr hbusy
  obtain ⟨-, -, hd⟩ := (phaseEndEnabled_iff _).1 hen
  exact ⟨m, hsame.phase, hsame.owner, hd, hm, follow_phaseEnd hend⟩

theorem Fair.sendEnds_of_rxSettle {k : Nat} (hp : (follow P ev s k).phase = .rxSettle) : SendEnds P ev s k := by
  obtain ⟨m, hphase, howner, hd, hm, hnext⟩ := hf.reaches_phaseEnd hr (k := k) (by simp [hp])
  exact ⟨m, hm, howner, hnext.trans (phaseEnd_rxSettle (hf.rst hr m) (hphase.trans hp) hd)⟩

theorem Fair.sendEnds_of_txData {k : Nat} (hp : (follow P ev s k).phase = .txData) : SendEnds P ev s k := by
  obtain ⟨m, hphase, howner, hd, hm, hnext⟩ := hf.reaches_phaseEnd hr (k := k) (by simp [hp])
  rw [phaseEnd_txData (hf.rst hr m) (hphase.trans hp) hd] at hnext
  refine (hf.sendEnds_of_rxSettle hr (k := m + 1) (by rw [hnext]; rfl)).of_later (hm.trans m.le_succ) ?_
  rw [hnext, State.endTxData_owner, howner]

theorem Fair.sendEnds_of_txSettle {k : Nat} (hp : (follow P ev s k).phase = .txSettle) : SendEnds P ev s k := by
  obtain ⟨m, hphase, howner, hd, hm, hnext⟩ := hf.reaches_phaseEnd hr (k := k) (by simp [hp])
  rw [phaseEnd_txSettle (hf.rst hr m) (hphase.trans hp) hd] at hnext
  refine (hf.sendEnds_of_txData hr (k := m + 1) (by rw [hnext]; rfl)).of_later (hm.trans m.le_succ) ?_
  rw [hnext, State.endTxSettle_owner, howner]

/-- From any phase but IDLE the arbiter runs the phases that are left (R207, R212, R213). -/
theorem Fair.sendEnds {k : Nat} (hbusy : (follow P ev s k).phase ≠ .idle) : SendEnds P ev s k := by
  cases hp : (follow P ev s k).phase with
  | idle => exact absurd hp hbusy
  | txSettle => exact hf.sendEnds_of_txSettle hr hp
  | txData => exact hf.sendEnds_of_txData hr hp
  | rxSettle => exact hf.sendEnds_of_rxSettle hr hp

/-- The line is idle again and again. -/
theorem Fair.idle_again (k : Nat) : ∃ m, k ≤ m ∧ (follow P ev s m).phase = .idle := by
  by_cases hi : (follow P ev s k).phase = .idle
  · exact ⟨k, le_rfl, hi⟩
  · obtain ⟨m, hm, -, hend⟩ := hf.sendEnds hr hi
    exact ⟨m + 1, by omega, by rw [hend, State.endRxSettle_phase]⟩

/-- The owner of the line is answered at the end of its send (R213). -/
theorem Fair.owner_answered {k p : Nat} (hbusy : (follow P ev s k).phase ≠ .idle)
    (ho : (follow P ev s k).owner = some p) : ∃ n, AnsweredOk s p (follow P ev s n) := by
  obtain ⟨m, -, howner, hend⟩ := hf.sendEnds hr hbusy
  have hans : (follow P ev s (m + 1)).answers =
      (follow P ev s m).answers ++ [⟨p, (follow P ev s m).now, ⟨.ok, 0x00, []⟩⟩] := by
    rw [hend, State.endRxSettle_answers, howner, ho]
  exact ⟨m + 1, answeredOk_of_append hans rfl rfl⟩

/-- A granted request is answered OK: a send at its end, the others at once (R206, R220, R225). -/
theorem Fair.grant_answered {m p : Nat} (hgrant : ev m = .grant p) (hg : (follow P ev s m).grantable p = true) :
    ∃ n, AnsweredOk s p (follow P ev s n) := by
  obtain ⟨hi, r, hp⟩ := (grantable_iff _ p).1 hg
  obtain ⟨q, hq, hqp⟩ := port_of_pend hp
  have hnext : follow P ev s (m + 1) = (follow P ev s m).serve p r :=
    follow_succ (by rw [hgrant, agentStep, grant_eq (hf.rst hr m) hi hq hqp])
  cases r with
  | send d => exact hf.owner_answered hr (k := m + 1) (by rw [hnext]; nofun) (by rw [hnext]; rfl)
  | recv c => exact ⟨m + 1, answeredOk_of_append (n := m) (by rw [hnext]; rfl) rfl rfl⟩
  | cfgw reg v => exact ⟨m + 1, answeredOk_of_append (n := m) (by rw [hnext]; cases reg <;> rfl) rfl rfl⟩

/-- A request that is never granted stays. -/
theorem Fair.pend_of_never_granted {p : Nat} {r : Request} (hs : LineOk P s) (hp : s.pend p = some r)
    (hno : ∀ m, ¬ (ev m = .grant p ∧ (follow P ev s m).grantable p = true)) (n : Nat) :
    (follow P ev s n).pend p = some r := by
  have hline (n : Nat) : LineOk P (follow P ev s n) :=
    follow_induction (Inv := LineOk P) n.zero_le hs fun _ _ _ _ _ hu h => hu.agentStep h
  induction n with
  | zero => exact hp
  | succ n ih =>
    obtain h | h := follow_succ_cases P ev s n
    · exact (agentStep_pend_of_lineOk (hline n) (hf.rst hr n) h ih).resolve_right (hno n)
    · rwa [h]

end

/-- Settles O41: a request stays until it is granted, the line is idle again and again, so it is granted; and a granted
request is answered. -/
theorem everyLineRequestIsAnswered : Obligations.EveryLineRequestIsAnswered := by
  intro P ev s p hs hr hf hp
  obtain ⟨r, hp⟩ := Option.isSome_iff_exists.1 hp
  have hgranted : ∃ m, ev m = .grant p ∧ (follow P ev s m).grantable p = true := by
    by_contra hno
    have hstays := hf.pend_of_never_granted hr hs hp (not_exists.1 hno)
    have hagain (k : Nat) : ∃ m, k ≤ m ∧ (follow P ev s m).grantable p = true := by
      obtain ⟨m, hm, hi⟩ := hf.idle_again hr k
      exact ⟨m, hm, (grantable_iff _ p).2 ⟨hi, r, hstays m⟩⟩
    obtain ⟨m, -, hm⟩ := hf.grants p 0 fun k _ => hagain k
    exact hno ⟨m, hm⟩
  obtain ⟨m, hgrant, hg⟩ := hgranted
  obtain ⟨n, a, ha, hport, hok⟩ := hf.grant_answered hr hgrant hg
  exact ⟨n, a, ha, hport, hok⟩

end Sys2Proof.Machine

namespace Sys2Proof.Machine

/-! ## The error answer -/

section
variable {s t : State} {resp : Response}

/-- The response that was sent last, from a record of answers read in two ways. -/
theorem last_response_eq {r : Response} (hans : t.answers = s.answers ++ [⟨s.cur, s.now, resp⟩])
    (h : t.answers = s.answers ++ [⟨s.cur, s.now, r⟩]) : r = resp := by
  simpa using h.symm.trans hans

theorem status_eq_ok_of_answers {aux : Byte} {dout : Bytes} (hans : t.answers = s.answers ++ [⟨s.cur, s.now, resp⟩])
    (hok : t.answers = s.answers ++ [⟨s.cur, s.now, ⟨.ok, aux, dout⟩⟩]) : resp.status = .ok := by
  rw [← last_response_eq hans hok]

theorem setPbuf_ended_answers (s : State) (i : ParserId) (b : Bytes) (q : Port) (r : Response) :
    ((s.setPbuf i b).ended q r).answers = s.answers ++ [⟨s.cur, s.now, r⟩] := by simp

/-- An error that R72 can carry is laid out as R271 has it. -/
theorem ResponseOk.eq_error (h : ResponseOk resp) (hne : resp.status ≠ .ok) :
    resp = Response.error resp.status := by
  obtain ⟨-, hshape⟩ := h
  obtain ⟨haux, hdout⟩ := hshape hne
  obtain ⟨st, aux, dout⟩ := resp
  obtain rfl : aux = 0x00 := haux
  obtain rfl : dout = [] := hdout
  rfl

theorem AnswersGrow.eq_error (h : AnswersGrow s t) (hans : t.answers = s.answers ++ [⟨s.cur, s.now, resp⟩])
    (hne : resp.status ≠ .ok) : resp = Response.error resp.status := by
  obtain hsame | ⟨p, r, -, hr, hgrow⟩ := h
  · simp [hsame] at hans
  · obtain ⟨-, rfl⟩ : p = s.cur ∧ r = resp := by simpa using hgrow.symm.trans hans
    exact hr.eq_error hne

/-- An error of `PARSER_PUSH` is raised before the buffer is read, so its answer is one that R72 can carry whatever the
buffer holds (R157). -/
theorem execParserPush_grow_of_error {arg : Byte} {din : Bytes} (h : execParserPush arg din s = .next t)
    (hans : t.answers = s.answers ++ [⟨s.cur, s.now, resp⟩]) (hne : resp.status ≠ .ok) : AnswersGrow s t := by
  unfold execParserPush at h; split at h
  · exact raise_grow h
  · split at h
    · exact raise_grow h
    · obtain ⟨q, -, rfl⟩ := respond_setPbuf_next h
      exact absurd (status_eq_ok_of_answers hans (setPbuf_ended_answers s _ _ _ _)) hne

/-- Whatever the command, an answer that is not OK has AUX 0x00 and no result bytes (R271). -/
theorem exec_error_eq {i : Instr} (h : exec i s = .next t)
    (hans : t.answers = s.answers ++ [⟨s.cur, s.now, resp⟩]) (hne : resp.status ≠ .ok) :
    resp = Response.error resp.status := by
  suffices hgrow : AnswersGrow s t from hgrow.eq_error hans hne
  cases i with
  | nop a d => exact execNop_grow h
  | crcClear a d => exact execCrcClear_grow h
  | crcFeed a d => exact execCrcFeed_grow h
  | crcRead a d => exact execCrcRead_grow h
  | frameEncode a d => exact execFrameEncode_grow h
  | frameDecode a d => exact execFrameDecode_grow h
  | parserPush a d => exact execParserPush_grow_of_error h hans hne
  | parserReset a d => exact execParserReset_grow h
  | parserLevel a d => exact execParserLevel_grow h
  | envEncode a d => exact execEnvEncode_grow h
  | envDecode a d => exact execEnvDecode_grow h
  | xcvrSend a d => exact execXcvrSend_grow h
  | xcvrRecv a m => exact execXcvrRecv_grow h
  | cfgRead a d => exact execCfgRead_grow h
  | cfgWrite a d => exact execCfgWrite_grow h
  | reserved o a d => exact raise_grow h

/-- A command that ends with an answer that is not OK has written nothing but its answer and `CMD[cur]`: the other ways
to end answer OK. -/
theorem Ends.eq_ended_of_error {q : Port} (h : Ends s q t)
    (hans : t.answers = s.answers ++ [⟨s.cur, s.now, resp⟩]) (hne : resp.status ≠ .ok) :
    t = s.ended { q with cmd := none } resp := by
  cases h with
  | plain r => rw [last_response_eq hans rfl]
  | crc c aux => exact absurd (status_eq_ok_of_answers hans rfl) hne
  | pbuf i b aux dout => exact absurd (status_eq_ok_of_answers hans (setPbuf_ended_answers s _ _ _ _)) hne
  | status v => exact absurd (status_eq_ok_of_answers hans rfl) hne

end

/-- Settles O9: a request sends no answer; a command that ends with an error writes only its answer, and that answer is
the error response. -/
theorem errorChangesNothing : Obligations.ErrorChangesNothing := by
  intro i s t q resp hq hx hans hne
  have herr := exec_error_eq hx hans hne
  obtain ⟨r, -, hreq⟩ | ⟨-, u, hx', hends⟩ := exec_cases i hq
  · obtain rfl : s.pendWith q r = t := Host.Outcome.next.inj (hreq.symm.trans hx)
    simp at hans
  · obtain rfl : u = t := Host.Outcome.next.inj (hx'.symm.trans hx)
    rw [hx, hends.eq_ended_of_error hans hne, State.errWith, ← herr]

/-! ## No step stops -/

/-- A command of a port that is there has a next state. -/
theorem exec_next (i : Instr) {s : State} {q : Port} (h : s.ports[s.cur]? = some q) : ∃ t, exec i s = .next t := by
  obtain ⟨r, -, hx⟩ | ⟨-, t, hx, -⟩ := exec_cases i h
  · exact ⟨_, hx⟩
  · exact ⟨t, hx⟩

/-- A port executes a command only after it has fetched it, and then it is there. -/
theorem portStep_next (s : State) (p : Nat) : ∃ t, s.portStep p = .next t := by
  unfold State.portStep
  cases hf : s.fetch p with
  | none => exact ⟨s, rfl⟩
  | some r =>
    obtain ⟨q, hq, -⟩ := fetch_port hf
    exact exec_next r.1 hq

theorem agentStep_next (P : Config.Params) (e : Event) (s : State) : ∃ t, agentStep P e s = .next t := by
  cases e with
  | port p => exact portStep_next s p
  | host p bs => exact ⟨_, rfl⟩
  | grant p => exact ⟨_, rfl⟩
  | phaseEnd => exact ⟨_, rfl⟩
  | lineStart => exact ⟨_, rfl⟩
  | lineStop v framing drawn => exact ⟨_, rfl⟩
  | clock d => exact ⟨_, rfl⟩
  | rstAssert => exact ⟨_, rfl⟩
  | rstRelease => exact ⟨_, rfl⟩

/-- Settles O56: with no agent named the state stays; a named agent's step has a next state. -/
theorem noStepStops : Obligations.NoStepStops := by
  intro s
  unfold step stepWith
  cases s.sched with
  | nil => exact ⟨s, rfl⟩
  | cons e es => exact agentStep_next Config.params e { s with sched := es }

end Sys2Proof.Machine

namespace Sys2Proof.Machine

/-! ## While RST is asserted -/

/-- A start bit of the peer is recorded as its byte on the line, and nowhere else. -/
theorem lineStart_eq_set_lineByte (s : State) : ∃ w, s.lineStart = { s with lineByte := w } := by
  unfold State.lineStart
  split
  · exact ⟨s.lineByte, rfl⟩
  · exact ⟨_, rfl⟩

theorem clock_eq_set_now (s : State) (d : Rat) : ∃ x, s.clock d = { s with now := x } := by
  unfold State.clock
  split
  · exact ⟨_, rfl⟩
  · exact ⟨s.now, rfl⟩

section
variable {s t : State} (hr : s.rst = true)
include hr

theorem hostBytes_eq_self_of_rst (p : Nat) (bs : Bytes) : s.hostBytes p bs = s := if_pos hr

/-- No port takes a command. -/
theorem portStep_of_rst (p : Nat) : s.portStep p = .next s := by
  have hf : s.fetch p = none := if_pos hr
  rw [State.portStep, hf]

theorem grant_eq_self_of_rst (p : Nat) : s.grant p = s := if_pos (.inl hr)

/-- No phase ends: the arbiter's timed step is not enabled. -/
theorem phaseEnd_eq_self_of_rst (P : Config.Params) : s.phaseEnd P = s := by
  obtain h | ⟨hr', -⟩ := phaseEnd_cases P s
  · exact h
  · simp [hr] at hr'

/-- The peer's byte comes to its end, and none is received (R300). -/
theorem lineStop_of_rst (P : Config.Params) (v : Byte) (framing : Bool) (drawn : Option Byte) :
    ∃ w, s.lineStop P v framing drawn = { s with lineByte := w } := by
  obtain h | h | ⟨x, hr', -⟩ := lineStop_cases P s v framing drawn
  · exact ⟨s.lineByte, h⟩
  · exact ⟨none, h⟩
  · simp [hr] at hr'

theorem rstAssert_eq_self_of_rst : s.rstAssert = s := if_pos hr

/-- Under RST no agent of the block takes a step (R300): time goes on, and the peer's byte on the line. -/
theorem agentStep_of_rst {P : Config.Params} {e : Event} (h : agentStep P e s = .next t) (hrelease : e ≠ .rstRelease) :
    ∃ x w, t = { s with now := x, lineByte := w } := by
  cases e with
  | host p bs => cases h; exact ⟨s.now, s.lineByte, hostBytes_eq_self_of_rst hr p bs⟩
  | port p =>
    obtain rfl : s = t := Host.Outcome.next.inj ((portStep_of_rst hr p).symm.trans h)
    exact ⟨s.now, s.lineByte, rfl⟩
  | grant p => cases h; exact ⟨s.now, s.lineByte, grant_eq_self_of_rst hr p⟩
  | phaseEnd => cases h; exact ⟨s.now, s.lineByte, phaseEnd_eq_self_of_rst hr P⟩
  | lineStart =>
    cases h
    obtain ⟨w, hw⟩ := lineStart_eq_set_lineByte s
    exact ⟨s.now, w, hw⟩
  | lineStop v framing drawn =>
    cases h
    obtain ⟨w, hw⟩ := lineStop_of_rst hr P v framing drawn
    exact ⟨s.now, w, hw⟩
  | clock d =>
    cases h
    obtain ⟨x, hx⟩ := clock_eq_set_now s d
    exact ⟨x, s.lineByte, hx⟩
  | rstAssert => cases h; exact ⟨s.now, s.lineByte, rstAssert_eq_self_of_rst hr⟩
  | rstRelease => exact absurd rfl hrelease

/-- The direction outputs under RST (R300). -/
theorem rxe_of_rst : s.rxe = true := by simp [State.rxe, hr]

theorem txe_of_rst : s.txe = false := by simp [State.txe, hr]

end

/-- Settles O58: a step under RST moves neither the block nor what it has sent. -/
theorem resetHoldsTheBlock : Obligations.ResetHoldsTheBlock := by
  intro P e s t hr h hrelease
  obtain ⟨x, w, rfl⟩ := agentStep_of_rst hr h hrelease
  exact ⟨⟨rfl, rfl, rfl, rfl, rfl, rfl, rfl, rfl, rfl, rfl, rfl, rfl⟩, rfl, rfl, rfl, rfl, hr, rxe_of_rst hr,
    txe_of_rst hr⟩

/-! ## The settle after a reset (R302) -/

/-- The receive settle with DEADLINE `d` still runs, or the time `d` has come. -/
def SettlesUntil (d : Rat) (s : State) : Prop := (s.phase = .rxSettle ∧ s.deadline = d) ∨ d ≤ s.now

section
variable {d : Rat} {P : Config.Params} {s t : State}

theorem SettlesUntil.le_now (hs : SettlesUntil d s) (hp : s.phase ≠ .rxSettle) : d ≤ s.now := by
  obtain ⟨hp', -⟩ | h := hs
  · exact absurd hp' hp
  · exact h

/-- The settle is a busy line: of the agents only the end of the phase moves it, and not before its DEADLINE (R213). -/
theorem SettlesUntil.agentStep {e : Event} (hs : SettlesUntil d s) (h : agentStep P e s = .next t)
    (hr : s.rst = false) (hassert : e ≠ .rstAssert) : SettlesUntil d t := by
  have hnow : s.now ≤ t.now := agentStep_now_le h
  obtain ⟨hp, hd⟩ | hpast := hs
  · obtain k | ⟨-, hen⟩ := agentStep_busy h hr hassert (by simp [hp])
    · exact .inl ⟨k.phase.trans hp, k.deadline.trans hd⟩
    · obtain ⟨-, -, hdue⟩ := (phaseEndEnabled_iff s).1 hen
      exact .inr (hd ▸ hdue.trans hnow)
  · exact .inr (hpast.trans hnow)

/-- A stream without a reset leaves a receive settle only at its DEADLINE or later. -/
theorem deadline_le_follow_now {ev : Nat → Event} {n : Nat} (hr : s.rst = false) (hp : s.phase = .rxSettle)
    (hno : ∀ k, k < n → ev k ≠ .rstAssert) (hleft : (follow P ev s n).phase ≠ .rxSettle) :
    s.deadline ≤ (follow P ev s n).now := by
  have hkept : (follow P ev s n).rst = false ∧ SettlesUntil s.deadline (follow P ev s n) := by
    refine follow_induction (Inv := fun u => u.rst = false ∧ SettlesUntil s.deadline u) n.zero_le ?_ ?_
    · exact ⟨hr, .inl ⟨hp, rfl⟩⟩
    · rintro k - hk u t ⟨hur, hu⟩ h
      exact ⟨agentStep_rst h hur (hno k hk), hu.agentStep h hur (hno k hk)⟩
  obtain ⟨-, hu⟩ := hkept
  exact hu.le_now hleft

end

/-- Settles O60: a release of RST, and the state after reset, begin a receive settle of SETTLE_RESET (R301). -/
theorem resetSettleComesFirst : Obligations.ResetSettleComesFirst := by
  refine ⟨fun P ev s t n hr h hno hleft => ?_, fun P ev n hno hleft => ?_⟩
  · obtain rfl : s.rstRelease P = t := Host.Outcome.next.inj h
    have hdeadline : (s.rstRelease P).deadline = s.now + (P.settleReset.toNat : Rat) := by rw [rstRelease_eq hr]
    rw [← hdeadline]
    exact deadline_le_follow_now (by rw [rstRelease_eq hr]; rfl) (by rw [rstRelease_eq hr]; rfl) hno hleft
  · have hdeadline : (State.resetWith P).deadline = (State.resetWith P).now + (P.settleReset.toNat : Rat) := by
      simp [State.resetWith]
    rw [← hdeadline]
    exact deadline_le_follow_now rfl rfl hno hleft

end Sys2Proof.Machine
